-- ==== Sys2Proof/Word.lean ====
section
/-! DEFINITION. The words of PERMGEN: the 32-bit data word (00_scope.md R6, R8), the 68-bit command word and the 36-bit
response word (30_encoding.md R46, R52), and the SRC operand (R47). -/

namespace Sys2Proof

/-- A 32-bit data word: LEN, SEED, CUR, one tap mask, LENGTH, ARG, BOUND, R and VALUE (R6, R10). The readings of R8 are
`v.toNat` for u(v) and `v.toInt` for s(v). -/
abbrev Word := BitVec 32

/-- A command word: OPC in bits 67:64, LENGTH in bits 63:32, ARG in bits 31:0 (R46). -/
abbrev CmdWord := BitVec 68

/-- A response word: STATUS in bits 35:32, VALUE in bits 31:0 (R52). -/
abbrev RspWord := BitVec 36

/-- The SRC operand of GENR (R47): which random source answers the draw. -/
inductive Source where
  /-- `SRC = 0`: no source was supplied, the block uses its default source (R127). -/
  | dflt
  /-- `SRC = 1`: the source the host attached, reached through the RNG channel (R55). -/
  | ext
  deriving DecidableEq, Repr

end Sys2Proof
end

