-- ==== Sys2Proof/Syntax.lean ====
section
/-! DEFINITION. The four commands, one constructor per row of spec/opcode_table.json (30_encoding.md R47, R48). The operands
have exactly the widths of R46, so a reserved field that must be 0 is no operand and cannot be written. -/

namespace Sys2Proof

/-- A command a host sends (00_scope.md R2, 30_encoding.md R47). -/
inductive Instr where
  /-- `GEN len`: start with seed 0 (40_start_commands.md R73). -/
  | gen (length : Word)
  /-- `GENR len, dflt|ext`: start with a seed drawn from a random source (R75). -/
  | genr (length : Word) (src : Source)
  /-- `GENS len, seed`: start with an explicit seed (R74). -/
  | gens (length arg : Word)
  /-- `NEXT`: pull one element (41_next_command.md R90). -/
  | next
  deriving DecidableEq, Repr

end Sys2Proof
end

