-- ==== Sys2Proof/WellFormed.lean ====
section
/-! DEFINITION. Which command words are well formed: the match and mask rows of 30_encoding.md R48, and no other word (R50, R51).
A term of `Instr` needs no check of its own: LENGTH and ARG take every 32-bit value and SRC both its values (R46, R47), and
the types of the operands say exactly that. So the checks stand on the word, where the reserved fields are. -/

namespace Sys2Proof

/-- One row of R48: a word `w` selects the row when `w AND mask = pattern`. -/
structure Row where
  /-- The row's mnemonic in spec/opcode_table.json. -/
  mnemonic : String
  /-- R48's column mask: 1 on the opcode bits and on the reserved bits. -/
  mask : CmdWord
  /-- R48's column match. -/
  pattern : CmdWord
  deriving DecidableEq, Repr

/-- The word selects the row (R48). -/
def Row.selects (r : Row) (w : CmdWord) : Bool := w &&& r.mask == r.pattern

/-- R48, row GEN. -/
def rowGEN : Row := ⟨"GEN", 0xF00000000FFFFFFFF, 0x10000000000000000⟩
/-- R48, row GENR. -/
def rowGENR : Row := ⟨"GENR", 0xF00000000FFFFFFFE, 0x20000000000000000⟩
/-- R48, row GENS. -/
def rowGENS : Row := ⟨"GENS", 0xF0000000000000000, 0x30000000000000000⟩
/-- R48, row NEXT. -/
def rowNEXT : Row := ⟨"NEXT", 0xFFFFFFFFFFFFFFFFF, 0x40000000000000000⟩

/-- The rows of R48 and of spec/opcode_table.json, in the table's order. -/
def rows : List Row := [rowGEN, rowGENR, rowGENS, rowNEXT]

/-- A word is well formed when some row selects it; every other word is an illegal command (R50). -/
def wellFormedWord (w : CmdWord) : Bool := rows.any fun r => r.selects w

/-- The row an instruction belongs to (R47, R48). -/
def Instr.row : Instr → Row
  | .gen _ => rowGEN
  | .genr _ _ => rowGENR
  | .gens _ _ => rowGENS
  | .next => rowNEXT

end Sys2Proof
end

