-- ==== Sys2Proof/Decode.lean ====
section
/-! DEFINITION. The decoder of the 68-bit command word, total and rejecting by name (30_encoding.md R46, R47, R50), the encoder
written from the same tables (R47, R56), and `decodeTableWord`, the decoder on a number laid out as spec/opcode_table.json
numbers its bits. -/

namespace Sys2Proof

/-- Why a word is an illegal command (R50). The response is the same for all of them (R121). -/
inductive DecodeError where
  /-- OPC is 0x0 or 0x5 to 0xF. -/
  | reservedOpcode
  /-- OPC is 0x1 and ARG is not 0. -/
  | genArgNotZero
  /-- OPC is 0x2 and ARG[31:1] is not 0. -/
  | genrReservedNotZero
  /-- OPC is 0x4 and LENGTH is not 0. -/
  | nextLengthNotZero
  /-- OPC is 0x4, LENGTH is 0 and ARG is not 0. -/
  | nextArgNotZero
  deriving DecidableEq, Repr

/-- OPC, bits 67:64 (R46). -/
def opcOf (w : CmdWord) : BitVec 4 := w.extractLsb' 64 4

/-- LENGTH, bits 63:32 (R46). -/
def lengthOf (w : CmdWord) : Word := w.extractLsb' 32 32

/-- ARG, bits 31:0 (R46). -/
def argOf (w : CmdWord) : Word := w.extractLsb' 0 32

/-- SRC as a source: 1 is the supplied source, 0 the default one (R47). -/
def sourceOfBit (b : BitVec 1) : Source := if b = 1 then .ext else .dflt

/-- A source as its SRC bit (R47). -/
def bitOfSource : Source → BitVec 1
  | .dflt => 0
  | .ext => 1

/-- The command a word stands for, or the reason why it is illegal (R46, R47, R50). -/
def decode (w : CmdWord) : Except DecodeError Instr :=
  if opcOf w = 0x1 then
    if argOf w = 0 then .ok (.gen (lengthOf w)) else .error .genArgNotZero
  else if opcOf w = 0x2 then
    if (argOf w).extractLsb' 1 31 = 0 then .ok (.genr (lengthOf w) (sourceOfBit ((argOf w).extractLsb' 0 1)))
    else .error .genrReservedNotZero
  else if opcOf w = 0x3 then
    .ok (.gens (lengthOf w) (argOf w))
  else if opcOf w = 0x4 then
    if lengthOf w ≠ 0 then .error .nextLengthNotZero
    else if argOf w ≠ 0 then .error .nextArgNotZero
    else .ok .next
  else .error .reservedOpcode

/-- The command word of an instruction, with its reserved fields 0 (R46, R47, R56). -/
def encode : Instr → CmdWord
  | .gen length => (0x1#4 ++ length) ++ 0#32
  | .genr length src => (0x2#4 ++ length) ++ (0#31 ++ bitOfSource src)
  | .gens length arg => (0x3#4 ++ length) ++ arg
  | .next => (0x4#4 ++ 0#32) ++ 0#32

/-- What the decoder reads from the word whose bits are `w`, of which the table gives `nbits` (R46: always the one 68-bit
word, in no byte order, R33). A number with a bit above bit 67 is no command word. -/
def decodeTableWord (nbits w : Nat) : Option Instr :=
  if w % 2 ^ nbits < 2 ^ 68 then (decode (BitVec.ofNat 68 (w % 2 ^ nbits))).toOption else none

end Sys2Proof
end

