-- ==== Sys2Proof/Config.lean ====
section
/-! DEFINITION. What the spec leaves open and the model leaves free: the answer of the random source (92_eei_decisions.md D12,
93_implementation_defined.md U3). The other open parameter of the spec, the ROM contents `TAPS` (D19), is a field of State. -/

namespace Sys2Proof

/-- The answer a random source gives when no answer stands ready in the state's list: any 32-bit word (60_exceptions.md R124,
R127). It has no body, so nothing can be proved of its value. The arguments are the number of requests made before, the
source asked and the bound. DESIGN CHOICE, notes/assumptions/4.md. -/
opaque Config.freeDraw : Nat → Source → Word → Word

end Sys2Proof
end

