-- ==== Sys2Proof/Machine/Rom.lean ====
section
/-! DEFINITION. The default contents of the polynomial-tap ROM, 20_memory.md R39: word i is the tap mask for bit width i + 2. -/

namespace Sys2Proof.Machine

/-- The default table of R39. PRESUMED: the spec itself marks it as general knowledge (K1), the source prints no word; see
notes/assumptions/1.md. Every statement about outputs holds for every contents of `State.taps`. -/
def defaultTaps : Vector Word 31 :=
  #v[
    0x00000003, 0x00000006, 0x0000000C, 0x00000014, 0x00000030, 0x00000060,
    0x000000B8, 0x00000110, 0x00000240, 0x00000500, 0x00000E08, 0x00001C80,
    0x00003802, 0x00006000, 0x0000D008, 0x00012000, 0x00020400, 0x00072000,
    0x00090000, 0x00140000, 0x00300000, 0x00420000, 0x00E10000, 0x01200000,
    0x02000023, 0x04000013, 0x09000000, 0x14000000, 0x20000029, 0x48000000,
    0x80200003]

end Sys2Proof.Machine
end

