-- ==== Sys2Proof/Machine/State.lean ====
section
/-! DEFINITION. The state of one PERMGEN instance (10_state.md R10) with its three channels (30_encoding.md R45), the outcomes
other than a next state, and the state after reset (R23, 70_reset_and_hazards.md R140). -/

namespace Sys2Proof.Machine

/-- The iteration cursor PHASE (R11). -/
inductive Phase where
  /-- Code 0: no live sequence. -/
  | idle
  /-- Code 1: a start command was accepted and no element has been emitted yet. -/
  | first
  /-- Code 2: `LEN = 2` and the element 1 has been emitted. -/
  | second
  /-- Code 3: `LEN >= 3` and `CUR - 1` is the element last emitted. -/
  | run
  deriving DecidableEq, Repr

/-- The status codes a response can carry (30_encoding.md R53); the code values are `statusCode`. -/
inductive Status where
  /-- `OK`: a start command was accepted. -/
  | ok
  /-- `ELEM`: one element. -/
  | elem
  /-- `END`: no further element. -/
  | ended
  /-- `ERR_LENGTH_NEG`. -/
  | errLengthNeg
  /-- `ERR_SEED_NEG`. -/
  | errSeedNeg
  /-- `ERR_SEED_RANGE`. -/
  | errSeedRange
  /-- `ILLEGAL`: the word is no command. -/
  | illegal
  deriving DecidableEq, Repr

/-- The three reasons of InvalidArgument (60_exceptions.md R115, R116). -/
inductive Reason where
  /-- V1: the length is negative. -/
  | lengthNeg
  /-- V2: the seed is negative. -/
  | seedNeg
  /-- V3: the seed is not below the length (and the pair is not 0, 0). -/
  | seedRange
  deriving DecidableEq, Repr

/-- What can enter the block through CMD and reset (30_encoding.md R45, 70_reset_and_hazards.md R140). -/
inductive Input where
  /-- One command word on CMD. -/
  | command (w : CmdWord)
  /-- The reset event, between two commands. -/
  | reset
  /-- The command word `w` is delivered and the reset event arrives while it is executing. `requested` says whether the
  command, a GENR that makes a request at all, had sent its request to the random source by then. -/
  | resetDuring (w : CmdWord) (requested : Bool)
  deriving DecidableEq, Repr

/-- One request to a random source (R55): which source, and the word BOUND. -/
structure DrawRequest where
  /-- The source asked; only requests to `ext` appear on the RNG channel. -/
  source : Source
  /-- The exclusive upper bound, always the LENGTH operand. -/
  bound : Word
  deriving DecidableEq, Repr

/-- How the loop of NEXT in phase RUN ends (41_next_command.md R94): on START, or on a value in range. -/
inductive LoopExit where
  /-- Step 5: the stepped value is START. -/
  | wrap (c : Word)
  /-- Step 7: the stepped value is in range. -/
  | emit (c : Word)
  deriving DecidableEq, Repr

/-- The state of one instance. The first five fields are the block's (R10); the last four are the model's own record of the
channels (notes/assumptions/4.md to 7.md). -/
structure State where
  /-- PHASE, 2 bits (R11). -/
  phase : Phase
  /-- LEN, the length of the live sequence (R12). -/
  len : Word
  /-- SEED, the seed of the live sequence (R13). -/
  seed : Word
  /-- CUR, the LFSR register (R14). -/
  cur : Word
  /-- TAPS[0..30], the polynomial-tap ROM (R20, R30). -/
  taps : Vector Word 31
  /-- What the host will still send, in order. -/
  inputs : List Input
  /-- The response words given so far on RSP, oldest first. -/
  rsps : List RspWord
  /-- The answers the random source has ready for the requests still to come, in order. -/
  answers : List Word
  /-- The requests made to a random source so far, oldest first. -/
  requests : List DrawRequest
  deriving DecidableEq, Repr

/-- Why the machine stops. -/
inductive Fault where
  /-- Raised by NEXT in phase RUN when the loop of R94 reaches neither START nor a value in range, however long it runs: the
  command never answers. No run reaches such a state (R112). Safe: the machine stops where the hardware steps for ever. -/
  | discardLoopEndless
  deriving DecidableEq, Repr

/-- Why an instruction has no meaning. -/
inductive Refusal where
  /-- Raised by an arm of `exec` whose instruction has no meaning yet; no arm does. Safe: the machine stops. -/
  | notModelled (mnemonic : String)
  deriving DecidableEq, Repr

/-- The instance right after reset (R23, R140). PHASE is IDLE. The spec gives LEN, SEED and CUR no reset value: 0 is a DESIGN
CHOICE, notes/assumptions/3.md. The ROM holds the default table of 20_memory.md R39 (PRESUMED, notes/assumptions/1.md).
Nothing has been sent, answered or requested (notes/assumptions/4.md to 7.md). -/
def State.reset : State where
  phase := .idle
  len := 0
  seed := 0
  cur := 0
  taps := defaultTaps
  inputs := []
  rsps := []
  answers := []
  requests := []

end Sys2Proof.Machine
end

