-- ==== Sys2Proof/Machine/Ops.lean ====
section
/-! DEFINITION. The shared operations: responding (30_encoding.md R52 to R54), raising InvalidArgument and answering an illegal
word (60_exceptions.md R118, R121), loading an instance (40_start_commands.md R72), drawing from a random source (R124),
reading the ROM (20_memory.md R30, R31), taking the host's next input and reset (70_reset_and_hazards.md R140). -/

namespace Sys2Proof.Machine

/-- The 2-bit codes of PHASE (R11); they are visible on no port. -/
def phaseCode : Phase → BitVec 2
  | .idle => 0
  | .first => 1
  | .second => 2
  | .run => 3

/-- The 4-bit status codes (R53). -/
def statusCode : Status → BitVec 4
  | .ok => 0x0
  | .elem => 0x1
  | .ended => 0x2
  | .errLengthNeg => 0x8
  | .errSeedNeg => 0x9
  | .errSeedRange => 0xA
  | .illegal => 0xF

/-- The status an InvalidArgument is reported with (R116). -/
def reasonStatus : Reason → Status
  | .lengthNeg => .errLengthNeg
  | .seedNeg => .errSeedNeg
  | .seedRange => .errSeedRange

/-- The 36-bit response word: status above value (R52). -/
def rspWord (status : Status) (value : Word) : RspWord := statusCode status ++ value

/-- The STATUS field of a response word, bits 35:32 (R52). -/
def rspStatus (w : RspWord) : BitVec 4 := w.extractLsb' 32 4

/-- The VALUE field of a response word, bits 31:0 (R52). -/
def rspValue (w : RspWord) : Word := w.extractLsb' 0 32

/-- `respond(STATUS, value)` puts the command's one response word on RSP (R8, R52). -/
def respond (status : Status) (value : Word) (s : State) : State :=
  { s with rsps := s.rsps ++ [rspWord status value] }

/-- `raise InvalidArgument(reason, value)`: PHASE goes to IDLE, the error is the response, nothing else is written (R118). -/
def raiseInvalidArgument (reason : Reason) (value : Word) (s : State) : State :=
  respond (reasonStatus reason) value { s with phase := .idle }

/-- `raise Illegal`: the response ILLEGAL 0 and no register written (R121). -/
def raiseIllegal (s : State) : State := respond .illegal 0 s

/-- `Load(len, seed)` for a valid pair, given as the two words: all four registers are written together (R72). -/
def load (length seed : Word) (s : State) : State :=
  respond .ok 0
    { s with
      len := length
      seed := seed
      cur := seed + 1
      phase := if length = 0 then .idle else .first }

/-- The word `Draw(bound)` answers: the next answer that stands ready, and a free value when none does (R124, R127).
The two sources are treated alike (R55). -/
def drawAnswer (src : Source) (bound : Word) (s : State) : Word :=
  match s.answers with
  | r :: _ => r
  | [] => Config.freeDraw s.requests.length src bound

/-- The state after `Draw(bound)`: one request made, its answer taken (R55, R128). No register is written. -/
def afterDraw (src : Source) (bound : Word) (s : State) : State :=
  { s with
    answers := s.answers.tail
    requests := s.requests ++ [⟨src, bound⟩] }

/-- `RomRead(i)`: word i of the tap ROM, 0 to 30 (R8, R30). -/
def romRead (s : State) (i : Fin 31) : Word := s.taps[i]

/-- The host's next input, taken from the list of what it will send; none while the host sends nothing (R40, R143). -/
def takeInput (s : State) : Option (Input × State) :=
  match s.inputs with
  | [] => none
  | i :: rest => some (i, { s with inputs := rest })

/-- Reset (R140, R23): the registers take their values after reset; no response, no request, the ROM untouched. The values of
LEN, SEED and CUR are those of `State.reset`, DESIGN CHOICE, notes/assumptions/3.md. -/
def applyReset (s : State) : State :=
  { s with
    phase := State.reset.phase
    len := State.reset.len
    seed := State.reset.seed
    cur := State.reset.cur }

/-- The request a command word makes to a random source when it executes: GENR with a length that is not negative makes one,
no other word makes any (R128). -/
def requestOf (w : CmdWord) : List DrawRequest :=
  match decode w with
  | .ok (.genr length src) => if length.toInt < 0 then [] else [⟨src, length⟩]
  | _ => []

/-- A command cut short by reset: it is abandoned without a response (R140). All that can be left of it is a request already
sent, which no answer is taken for; notes/assumptions/9.md. -/
def cutShort (w : CmdWord) (requested : Bool) (s : State) : State :=
  applyReset (if requested then { s with requests := s.requests ++ requestOf w } else s)

end Sys2Proof.Machine
end

