-- ==== Sys2Proof/Machine/Operands.lean ====
section
/-! DEFINITION. Operands and what is derived from them by logic alone: seed validation (40_start_commands.md R66) on
the signed readings of 30_encoding.md R49, the bit-width selector (R70) and the derived values MASK and START (10_state.md R15 to R17). -/

namespace Sys2Proof.Machine

/-- `Validate(len, seed, lenword, seedword)`: the first of V1, V2, V3 that fails, with the operand word it reports; none when
the pair is valid (R66, R68). -/
def validate (len seed : Int) (lenWord seedWord : Word) : Option (Reason × Word) :=
  if len < 0 then some (.lengthNeg, lenWord)
  else if seed < 0 then some (.seedNeg, seedWord)
  else if len ≤ seed ∧ ¬(seed = 0 ∧ len = 0) then some (.seedRange, seedWord)
  else none

/-- The part all start commands share: validate the pair, then load it or raise the error (R65). -/
def startWith (lenWord seedWord : Word) (s : State) : State :=
  match validate lenWord.toInt seedWord.toInt lenWord seedWord with
  | some (reason, value) => raiseInvalidArgument reason value s
  | none => load lenWord seedWord s

/-- `bitlen(n)`: the number of bits needed to write n (R8). -/
def bitlen (n : Nat) : Nat := if n = 0 then 0 else 1 + Nat.log2 n

/-- `B = max(2, bitlen(u(LEN)))` (R15, R70). -/
def bitWidth (len : Word) : Nat := max 2 (bitlen len.toNat)

/-- A 32-bit length needs at most 32 bits, so the ROM index `B - 2` is in range for every word (R30, R34). -/
theorem bitWidth_sub_two_lt (len : Word) : bitWidth len - 2 < 31 := by
  have h : bitlen len.toNat ≤ 32 := by
    unfold bitlen
    split
    · omega
    · next h0 =>
      have := (Nat.log2_lt h0).2 len.isLt
      omega
  unfold bitWidth
  omega

/-- The ROM index `B - 2` (R31). -/
def romIndex (len : Word) : Fin 31 := ⟨bitWidth len - 2, bitWidth_sub_two_lt len⟩

/-- `MASK = RomRead(B - 2)` (R16, R31). -/
def maskOf (s : State) : Word := romRead s (romIndex s.len)

/-- `START = SEED + 1` modulo 2^32 (R17). -/
def startOf (s : State) : Word := s.seed + 1

end Sys2Proof.Machine
end

