-- ==== Sys2Proof/Machine/Flags.lean ====
section
/-! DEFINITION. The three conditions computed inside one NEXT (10_state.md R19, 41_next_command.md R95 to R97). The block stores
no flag: none of them outlives the command. -/

namespace Sys2Proof.Machine

/-- `lsb`: the feedback bit, bit 0 of the register (R19, R95). -/
def lsb (c : Word) : Bool := c.getLsbD 0

/-- `wrap`: the stepped value equals START (R97). -/
def wrap (c start : Word) : Bool := c == start

/-- `oor`: the stepped value is greater than LEN, compared unsigned (R97). -/
def oor (c len : Word) : Bool := decide (len.toNat < c.toNat)

end Sys2Proof.Machine
end

