-- ==== Sys2Proof/Machine/Lfsr.lean ====
section
/-! DEFINITION. The LFSR register's feedback logic (41_next_command.md R95, R96) and the discard loop of NEXT (R94). -/

namespace Sys2Proof.Machine

/-- The feedback select: all ones when the low bit is 1, all zeros otherwise (R96). -/
def feedbackSelect (c : Word) : Word := 0 - (c &&& 1)

/-- One LFSR step in Galois form: `(c >> 1) XOR (m AND (0 - (c AND 1)))` (R95). -/
def lfsrStep (c m : Word) : Word := (c >>> 1) ^^^ (m &&& feedbackSelect c)

/-- The loop of R94 run for at most `fuel` steps from `c`: its exit, or none when no exit lies within them. -/
def discardLoop (mask start len : Word) : Nat → Word → Option LoopExit
  | 0, _ => none
  | fuel + 1, c =>
    let c' := lfsrStep c mask
    if wrap c' start then some (.wrap c')
    else if oor c' len then discardLoop mask start len fuel c'
    else some (.emit c')

/-- The number of 32-bit words. The loop of R94 has no cap; after this many steps every value it can take has been met, so a
loop without an exit by then has none at all. DEDUCED, notes/assumptions/8.md. -/
def loopBound : Nat := 2 ^ 32

end Sys2Proof.Machine
end

