-- ==== Sys2Proof/Machine/Pull.lean ====
section
/-! DEFINITION. The pull command NEXT (41_next_command.md R90 to R94). -/

namespace Sys2Proof.Machine

/-- NEXT in phase FIRST: the first element, which depends on the length (R92). -/
def emitFirst (s : State) : State :=
  if s.len.toNat = 1 then respond .elem 0 { s with phase := .idle }
  else if s.len.toNat = 2 then respond .elem 1 { s with phase := .second }
  else respond .elem s.seed { s with phase := .run }

/-- NEXT in phase RUN: step to START or to the next value in range (R94). -/
def emitRun (s : State) : Host.Outcome State Fault Refusal :=
  match discardLoop (maskOf s) (startOf s) s.len loopBound s.cur with
  | some (.wrap c) => .next (respond .ended 0 { s with cur := c, phase := .idle })
  | some (.emit c) => .next (respond .elem (c - 1) { s with cur := c })
  | none => .fault .discardLoopEndless

/-- `NEXT`: produce the next element of the live sequence, or report that there is none (R90). -/
def execNext (s : State) : Host.Outcome State Fault Refusal :=
  match s.phase with
  | .idle => .next (respond .ended 0 s)
  | .first => .next (emitFirst s)
  | .second => .next (respond .elem 0 { s with phase := .idle })
  | .run => emitRun s

end Sys2Proof.Machine
end

