-- ==== Sys2Proof/Machine/Start.lean ====
section
/-! DEFINITION. The start commands GEN, GENR, GENS (40_start_commands.md R73, R75, R74). -/

namespace Sys2Proof.Machine

/-- `GEN`: start with seed 0 (R73). -/
def execGen (length : Word) (s : State) : Host.Outcome State Fault Refusal :=
  .next (startWith length 0 s)

/-- `GENR`: test V1 first and draw only when it passes; the answer is validated like an explicit seed (R75, R126). -/
def execGenr (length : Word) (src : Source) (s : State) : Host.Outcome State Fault Refusal :=
  .next
    (if length.toInt < 0 then raiseInvalidArgument .lengthNeg length s
     else startWith length (drawAnswer src length s) (afterDraw src length s))

/-- `GENS`: start with the explicit seed ARG (R74). -/
def execGens (length arg : Word) (s : State) : Host.Outcome State Fault Refusal :=
  .next (startWith length arg s)

end Sys2Proof.Machine
end

