-- ==== Sys2Proof/Machine/Dispatch.lean ====
section
/-! DEFINITION. One arm per command, each a direct call of its meaning. -/

namespace Sys2Proof.Machine

def exec (i : Instr) (s : State) : Host.Outcome State Fault Refusal :=
  match i with
  | .gen length => Sys2Proof.Machine.execGen length s
  | .genr length src => Sys2Proof.Machine.execGenr length src s
  | .gens length arg => Sys2Proof.Machine.execGens length arg s
  | .next => Sys2Proof.Machine.execNext s

end Sys2Proof.Machine
end

