-- ==== Sys2Proof/Machine/Step.lean ====
section
/-! DEFINITION. One step of an instance: the host's next input, executed whole (00_scope.md R7, 20_memory.md R40). -/

namespace Sys2Proof.Machine

/-- One step: nothing happens while the host sends nothing (60_exceptions.md R123); a command word is decoded and executed, or
answered ILLEGAL (R121); reset is applied (70_reset_and_hazards.md R140). -/
def step (s : State) : Host.Outcome State Fault Refusal :=
  match takeInput s with
  | none => .next s
  | some (.command w, s') =>
    match decode w with
    | .ok i => exec i s'
    | .error _ => .next (raiseIllegal s')
  | some (.reset, s') => .next (applyReset s')
  | some (.resetDuring w requested, s') => .next (cutShort w requested s')

/-- The state with one more command word to come, before all others: the next step runs exactly it. The block fetches nothing
(00_scope.md R2), so this stands for the host sending the word; notes/assumptions/6.md. -/
def State.withFetchWord (s : State) (nbits w : Nat) : State :=
  { s with inputs := .command (BitVec.ofNat 68 (w % 2 ^ nbits)) :: s.inputs }

end Sys2Proof.Machine
end

