-- ==== Sys2Proof/Safety.lean ====
section
/-! DEFINITION. The terms statements are made in: valid pairs (40_start_commands.md R67), what a tap mask and a random source
must satisfy (20_memory.md R36, R37, 60_exceptions.md R125), the invariant of the state (10_state.md R22), runs of NEXT, and what
the host can observe (70_reset_and_hazards.md R150). -/

namespace Sys2Proof.Machine

/-- The valid pairs of a length and a seed: (0, 0), and (n, s) with `n >= 1` and `0 <= s < n` (R67). -/
abbrev ValidPair (len seed : Int) : Prop := (len = 0 ∧ seed = 0) ∨ (1 ≤ len ∧ 0 ≤ seed ∧ seed < len)

/-- `Step_m^k(c)`: the state k LFSR steps after c (R36). -/
def orbit (m c : Word) : Nat → Word
  | 0 => c
  | k + 1 => lfsrStep (orbit m c k) m

/-- `TapRange(B, M)`: no mask bit at or above position B, and the top bit of the B-bit register fed back (R37). -/
abbrev TapRange (b : Nat) (m : Word) : Prop := m.toNat < 2 ^ b ∧ m.getLsbD (b - 1) = true

/-- `TapOK(B, M)`: TapRange, and the least k >= 1 with `Step_M^k(1) = 1` is `2^B - 1` (R36). -/
abbrev TapOK (b : Nat) (m : Word) : Prop :=
  TapRange b m ∧ orbit m 1 (2 ^ b - 1) = 1 ∧ ∀ k, k < 2 ^ b - 1 → 1 ≤ k → orbit m 1 k ≠ 1

/-- `RomOK`: every word of the ROM meets TapOK at its width (R36). -/
def RomOK (taps : Vector Word 31) : Prop := ∀ i : Fin 31, TapOK (i.val + 2) taps[i]

/-- `RngOK` for one request: the answer lies in `[0, bound)` for a bound >= 1, and is 0 for the bound 0 (R125). -/
abbrev RngOK (bound answer : Word) : Prop :=
  (1 ≤ bound.toInt → 0 ≤ answer.toInt ∧ answer.toInt < bound.toInt) ∧ (bound.toInt = 0 → answer = 0)

/-- The response is an element (R53). -/
def isElem (w : RspWord) : Bool := rspStatus w == statusCode .elem

/-- The element last emitted, if any has been. -/
def lastElem (rsps : List RspWord) : Option Word := ((rsps.filter isElem).getLast?).map rspValue

/-- The invariant of the state, phase by phase (R22). It holds for every ROM; the one clause that needs a fact about the ROM,
that CUR is not 0, carries TapRange of the word in use as its premise. -/
def StateInv (s : State) : Prop :=
  match s.phase with
  | .idle => True
  | .first =>
    1 ≤ s.len.toNat ∧ s.len.toNat < 2 ^ 31 ∧ s.seed.toNat < s.len.toNat ∧ s.cur = s.seed + 1
  | .second => s.len.toNat = 2 ∧ s.seed.toNat < 2
  | .run =>
    3 ≤ s.len.toNat ∧ s.len.toNat < 2 ^ 31 ∧ s.seed.toNat < s.len.toNat ∧ s.cur.toNat ≤ s.len.toNat ∧
      (TapRange (bitWidth s.len) (maskOf s) → 1 ≤ s.cur.toNat) ∧
      lastElem s.rsps = some (s.cur - 1) ∧
      ∃ k, orbit (maskOf s) (startOf s) k = s.cur ∧
        ∀ j, 1 ≤ j → j ≤ k → orbit (maskOf s) (startOf s) j ≠ startOf s

/-- n NEXT commands, one after the other, stopping at the first that does not answer. -/
def pulls : Nat → State → Host.Outcome State Fault Refusal
  | 0, s => .next s
  | n + 1, s =>
    match exec .next s with
    | .next t => pulls n t
    | .fault f => .fault f
    | .refused r => .refused r

/-- Pulling from `t` to the end answers exactly the elements `es` and then END, and leaves phase IDLE. -/
def Emits (t : State) (es : List Word) : Prop :=
  ∃ u, pulls (es.length + 1) t = .next u ∧ u.phase = .idle ∧
    u.rsps = t.rsps ++ es.map (rspWord .elem) ++ [rspWord .ended 0]

/-- The request words that went out on the RNG channel (R55): those to the supplied source. -/
def rngChannel (s : State) : List Word :=
  (s.requests.filter fun r => r.source == .ext).map DrawRequest.bound

/-- Everything the host can observe of an instance: the response words and the request words on RNG (R150); none when the
machine stopped. -/
def observe : Host.Outcome State Fault Refusal → Option (List RspWord × List Word)
  | .next s => some (s.rsps, rngChannel s)
  | .fault _ => none
  | .refused _ => none

end Sys2Proof.Machine
end

