-- ==== Sys2Proof/Certificates/Slice0/Obligations.lean ====
section
/-! DEFINITION. The statements about PERMGEN, from the numbered rules of spec/. Each docstring says which rule it formalises.
Wherever a next state is given, it is written out field by field, so it says what the command leaves unchanged as well. -/

open Sys2Proof Sys2Proof.Machine

/-! Words: 30_encoding.md -/

/-- R47, R48, R56: the encoded word of every command, with every operand at every value, decodes to that command. -/
def Obligations.DecodeEncodeRoundTrip : Prop := ∀ i : Instr, decode (encode i) = .ok i

/-- R47, R50: each command has one word only, so the decoder drops no bit of the word. -/
def Obligations.EncodeDecodeRoundTrip : Prop := ∀ (w : CmdWord) (i : Instr), decode w = .ok i → encode i = w

/-- R48, R50: the decoder, which reads the fields of R46, accepts exactly the words that a match and mask row of R48 selects, and
reads the command of that row. -/
def Obligations.DecodeAcceptsExactlyTheRows : Prop :=
  ∀ w : CmdWord, ((∃ i, decode w = .ok i) ↔ wellFormedWord w = true) ∧
    ∀ i, decode w = .ok i → ∀ r ∈ rows, (r.selects w = true ↔ r = i.row)

/-- R48: at most one row selects a word. -/
def Obligations.RowsAreDisjoint : Prop :=
  ∀ w : CmdWord, ∀ r ∈ rows, ∀ r' ∈ rows, r.selects w = true → r'.selects w = true → r = r'

/-- R50, R121: a word is illegal exactly when it is in R50's list; it is answered ILLEGAL 0, and no register, no request and no
answer changes. -/
def Obligations.IllegalWordsAnsweredAndNothingWritten : Prop :=
  ∀ w : CmdWord,
    (wellFormedWord w = false ↔
      opcOf w = 0x0 ∨ 5 ≤ (opcOf w).toNat ∨ (opcOf w = 0x1 ∧ argOf w ≠ 0) ∨
        (opcOf w = 0x2 ∧ (argOf w).extractLsb' 1 31 ≠ 0) ∨ (opcOf w = 0x4 ∧ (lengthOf w ≠ 0 ∨ argOf w ≠ 0))) ∧
    ∀ (s : State) (rest : List Input), wellFormedWord w = false → s.inputs = .command w :: rest →
      step s = .next { s with inputs := rest, rsps := s.rsps ++ [rspWord .illegal 0] }

/-- The words of 95_test_vectors.md V-E1 to V-E8, written out there from R46 and R47, decode to their commands. -/
def Obligations.SpecWordsDecode : Prop :=
  decode 0x10000000400000000 = .ok (.gen 4) ∧
  decode 0x1FFFFFFFF00000000 = .ok (.gen (-1)) ∧
  decode 0x20000000500000001 = .ok (.genr 5 .ext) ∧
  decode 0x20000000500000000 = .ok (.genr 5 .dflt) ∧
  decode 0x30000000A00000007 = .ok (.gens 10 7) ∧
  decode 0x300000004FFFFFFFF = .ok (.gens 4 (-1)) ∧
  decode 0x37FFFFFFF7FFFFFFE = .ok (.gens 2147483647 2147483646) ∧
  decode 0x40000000000000000 = .ok .next

/-- R7, R40: when the word the host sends next decodes to a command, the step is that command executed, with the word taken off
the list of what the host will send (the model's own list, notes/assumptions/6.md) and nothing else done around it. -/
def Obligations.StepRunsTheDecodedInstruction : Prop :=
  ∀ (s : State) (w : CmdWord) (rest : List Input) (i : Instr),
    s.inputs = .command w :: rest → decode w = .ok i → step s = exec i { s with inputs := rest }

/-- R52, R53: a response word is STATUS above VALUE, both can be read back, and the status codes are those of the table. -/
def Obligations.ResponseWordLayout : Prop :=
  (∀ (status : Status) (value : Word),
    (rspWord status value).toNat = (statusCode status).toNat * 2 ^ 32 + value.toNat ∧
      rspStatus (rspWord status value) = statusCode status ∧ rspValue (rspWord status value) = value) ∧
  statusCode .ok = 0x0 ∧ statusCode .elem = 0x1 ∧ statusCode .ended = 0x2 ∧ statusCode .errLengthNeg = 0x8 ∧
    statusCode .errSeedNeg = 0x9 ∧ statusCode .errSeedRange = 0xA ∧ statusCode .illegal = 0xF

/-- R52, R53, R54: a command that answers gives exactly one response word, with a status its row of R53 lists and the VALUE of
R54 (the range of an element is `ElementsAreBelowTheLength`). -/
def Obligations.EachCommandGivesOneResponse : Prop :=
  ∀ (i : Instr) (s t : State), exec i s = .next t →
    ∃ status value, t.rsps = s.rsps ++ [rspWord status value] ∧
      match i with
      | .gen length => (status = .ok ∧ value = 0) ∨ (status = .errLengthNeg ∧ value = length)
      | .genr length src => (status = .ok ∧ value = 0) ∨ (status = .errLengthNeg ∧ value = length) ∨
          ((status = .errSeedNeg ∨ status = .errSeedRange) ∧ value = drawAnswer src length s)
      | .gens length arg => (status = .ok ∧ value = 0) ∨ (status = .errLengthNeg ∧ value = length) ∨
          ((status = .errSeedNeg ∨ status = .errSeedRange) ∧ value = arg)
      | .next => status = .elem ∨ (status = .ended ∧ value = 0)

/-! Start commands: 40_start_commands.md, 60_exceptions.md -/

/-- R67: the pairs that validation passes are (0, 0) and (n, s) with n >= 1 and 0 <= s < n. -/
def Obligations.ValidPairsAreExactlyThese : Prop :=
  ∀ (len seed : Int) (lenWord seedWord : Word),
    validate len seed lenWord seedWord = none ↔ (len = 0 ∧ seed = 0) ∨ (1 ≤ len ∧ 0 ≤ seed ∧ seed < len)

/-- R68: which test is reported, for every combination of a length and a seed, with the operand word of R116. -/
def Obligations.ValidationReportsFirstFailingTest : Prop :=
  ∀ (len seed : Int) (lenWord seedWord : Word),
    (len < 0 → validate len seed lenWord seedWord = some (.lengthNeg, lenWord)) ∧
    (0 ≤ len → seed < 0 → validate len seed lenWord seedWord = some (.seedNeg, seedWord)) ∧
    (len = 0 → seed = 0 → validate len seed lenWord seedWord = none) ∧
    (len = 0 → 0 < seed → validate len seed lenWord seedWord = some (.seedRange, seedWord)) ∧
    (1 ≤ len → 0 ≤ seed → seed < len → validate len seed lenWord seedWord = none) ∧
    (1 ≤ len → len ≤ seed → validate len seed lenWord seedWord = some (.seedRange, seedWord))

/-- R73, R72: GEN with a length that is not negative loads the instance with seed 0 and answers OK, from every state. -/
def Obligations.GenLoadsSeedZero : Prop :=
  ∀ (length : Word) (s : State), 0 ≤ length.toInt →
    exec (.gen length) s = .next { s with
      len := length
      seed := 0
      cur := 1
      phase := if length = 0 then .idle else .first
      rsps := s.rsps ++ [rspWord .ok 0] }

/-- R74, R72: GENS with a valid pair loads all four registers and answers OK, from every state; `seed + 1` does not wrap. -/
def Obligations.GensLoadsExplicitSeed : Prop :=
  ∀ (length arg : Word) (s : State), ValidPair length.toInt arg.toInt →
    exec (.gens length arg) s = .next { s with
      len := length
      seed := arg
      cur := arg + 1
      phase := if length = 0 then .idle else .first
      rsps := s.rsps ++ [rspWord .ok 0] } ∧
    (arg + 1).toNat = arg.toNat + 1

/-- R75, R72, R55, R128: GENR whose draw is a valid seed makes one request with the bound LENGTH, takes the answer, loads the
instance with it and answers OK, from every state. The answer is whatever `drawAnswer` gives: the statement holds for every
value of it (notes/assumptions/4.md). -/
def Obligations.GenrLoadsDrawnSeed : Prop :=
  ∀ (length r : Word) (src : Source) (s : State), drawAnswer src length s = r → ValidPair length.toInt r.toInt →
    exec (.genr length src) s = .next { s with
      len := length
      seed := r
      cur := r + 1
      phase := if length = 0 then .idle else .first
      rsps := s.rsps ++ [rspWord .ok 0]
      answers := s.answers.tail
      requests := s.requests ++ [⟨src, length⟩] } ∧
    (r + 1).toNat = r.toNat + 1

/-- R73, R116, R118: GEN with a negative length raises InvalidArgument: PHASE is IDLE, the answer is ERR_LENGTH_NEG with the
LENGTH word, and nothing else changes. -/
def Obligations.GenRaisesOnNegativeLength : Prop :=
  ∀ (length : Word) (s : State), length.toInt < 0 →
    exec (.gen length) s =
      .next { s with phase := .idle, rsps := s.rsps ++ [rspWord .errLengthNeg length] }

/-- R74, R68, R116, R118: the three errors of GENS, each with the operand it reports, and nothing but PHASE written. -/
def Obligations.GensRaisesInvalidArgument : Prop :=
  ∀ (length arg : Word) (s : State),
    (length.toInt < 0 → exec (.gens length arg) s =
      .next { s with phase := .idle, rsps := s.rsps ++ [rspWord .errLengthNeg length] }) ∧
    (0 ≤ length.toInt → arg.toInt < 0 → exec (.gens length arg) s =
      .next { s with phase := .idle, rsps := s.rsps ++ [rspWord .errSeedNeg arg] }) ∧
    (0 ≤ length.toInt → length.toInt ≤ arg.toInt → ¬(arg.toInt = 0 ∧ length.toInt = 0) → exec (.gens length arg) s =
      .next { s with phase := .idle, rsps := s.rsps ++ [rspWord .errSeedRange arg] })

/-- R75, R126, R128: the errors of GENR. A negative length makes no request; a bad answer is refused with the answer as VALUE,
after the one request, and no register but PHASE is written. -/
def Obligations.GenrRaisesInvalidArgument : Prop :=
  ∀ (length r : Word) (src : Source) (s : State), drawAnswer src length s = r →
    (length.toInt < 0 → exec (.genr length src) s =
      .next { s with phase := .idle, rsps := s.rsps ++ [rspWord .errLengthNeg length] }) ∧
    (0 ≤ length.toInt → r.toInt < 0 → exec (.genr length src) s =
      .next { s with
        phase := .idle
        rsps := s.rsps ++ [rspWord .errSeedNeg r]
        answers := s.answers.tail
        requests := s.requests ++ [⟨src, length⟩] }) ∧
    (0 ≤ length.toInt → length.toInt ≤ r.toInt → ¬(r.toInt = 0 ∧ length.toInt = 0) → exec (.genr length src) s =
      .next { s with
        phase := .idle
        rsps := s.rsps ++ [rspWord .errSeedRange r]
        answers := s.answers.tail
        requests := s.requests ++ [⟨src, length⟩] })

/-- R125: when the source keeps its contract, GENR with a length that is not negative answers OK. -/
def Obligations.ConformingSourceAlwaysAccepted : Prop :=
  ∀ (length : Word) (src : Source) (s : State), 0 ≤ length.toInt → RngOK length (drawAnswer src length s) →
    ∃ t, exec (.genr length src) s = .next t ∧ t.rsps = s.rsps ++ [rspWord .ok 0]

/-- R57, R73: GEN has the same effect as GENS with seed 0, in every state. -/
def Obligations.GenEqualsGensZero : Prop :=
  ∀ (length : Word) (s : State), exec (.gen length) s = exec (.gens length 0) s

/-- R128: the requests made to a random source: none by GEN, GENS, NEXT, none by GENR with a negative length, none by an
illegal word, and exactly one, with the bound LENGTH, by every other GENR. -/
def Obligations.RequestsAreExactlyThese : Prop :=
  (∀ (i : Instr) (s t : State), exec i s = .next t →
    t.requests = s.requests ++
      match i with
      | .genr length src => if length.toInt < 0 then [] else [⟨src, length⟩]
      | .gen _ => []
      | .gens _ _ => []
      | .next => []) ∧
  ∀ (s t : State) (w : CmdWord) (rest : List Input),
    s.inputs = .command w :: rest → wellFormedWord w = false → step s = .next t → t.requests = s.requests

/-- R77, R79: what a start command answers, and every answer of the NEXT commands that follow it, depend on its operands, the
seed and the ROM only: not on the state before, nor on which instance runs it. For GENR the two draws are taken equal. -/
def Obligations.AnswersDependOnOperandsAndRomOnly : Prop :=
  ∀ (i : Instr) (s₁ s₂ t₁ t₂ u₁ : State) (n : Nat),
    i ≠ .next → s₁.taps = s₂.taps →
    (∀ length src, i = .genr length src → drawAnswer src length s₁ = drawAnswer src length s₂) →
    exec i s₁ = .next t₁ → exec i s₂ = .next t₂ → pulls n t₁ = .next u₁ →
    ∃ u₂ out, pulls n t₂ = .next u₂ ∧ u₁.rsps = s₁.rsps ++ out ∧ u₂.rsps = s₂.rsps ++ out

/-! The bit-width selector and the ROM: 40_start_commands.md R70, 20_memory.md -/

/-- R70: the bit width is the least b >= 2 with 2^b - 1 >= n; more than half of its states are in range, and it is at most 31
for a length below 2^31. -/
def Obligations.BitWidthIsLeast : Prop :=
  ∀ n : Word,
    2 ≤ bitWidth n ∧ n.toNat ≤ 2 ^ bitWidth n - 1 ∧
    (∀ b, 2 ≤ b → n.toNat ≤ 2 ^ b - 1 → bitWidth n ≤ b) ∧
    bitWidth n = max 2 (bitlen n.toNat) ∧
    (2 ≤ n.toNat → 2 ^ (bitWidth n - 1) ≤ n.toNat) ∧
    (n.toNat < 2 ^ 31 → bitWidth n ≤ 31) ∧
    bitWidth 1000 = 10

/-- R32, R140: no step writes the ROM: every word reads after it as before it. -/
def Obligations.RomIsNeverWritten : Prop :=
  ∀ s t : State, step s = .next t → t.taps = s.taps ∧ ∀ i, romRead t i = romRead s i

/-- R34, R22: with a length below 2^31 the ROM index is at most 29, and whatever word 30 holds has no influence on NEXT. -/
def Obligations.LastRomWordIsNeverRead : Prop :=
  ∀ (s : State) (m : Word), s.len.toNat < 2 ^ 31 →
    (romIndex s.len).val ≤ 29 ∧
    (∀ t, exec .next s = .next t →
      exec .next { s with taps := s.taps.set 30 m } = .next { t with taps := s.taps.set 30 m }) ∧
    ∀ f, exec .next s = .fault f → exec .next { s with taps := s.taps.set 30 m } = .fault f

/-- R39: the default table that State.reset holds meets TapRange at every width. The table is the model's default
instantiation, PRESUMED, notes/assumptions/1.md. -/
def Obligations.DefaultTableMeetsTapRange : Prop := ∀ i : Fin 31, TapRange (i.val + 2) State.reset.taps[i]

/-- R39: the default table meets RomOK: every word is a maximal-length mask of its width. The table is the model's default
instantiation, PRESUMED, notes/assumptions/1.md. -/
def Obligations.DefaultTableMeetsRomOK : Prop := RomOK State.reset.taps

/-! The LFSR step: 41_next_command.md R95 to R103, 20_memory.md R36, R37 -/

/-- R95, R96: one LFSR step by formula, by case on the low bit, and bit by bit; the feedback select is all ones or all
zeros. `lsb c` is bit 0 of c. -/
def Obligations.LfsrStepByFormulaCaseAndBit : Prop :=
  ∀ c m : Word,
    lfsrStep c m = (c >>> 1) ^^^ (m &&& (0 - (c &&& 1))) ∧
    (lsb c = false → 0 - (c &&& 1) = 0x00000000#32 ∧ lfsrStep c m = c >>> 1) ∧
    (lsb c = true → 0 - (c &&& 1) = 0xFFFFFFFF#32 ∧ lfsrStep c m = (c >>> 1) ^^^ m) ∧
    (∀ i, i ≤ 30 → (lfsrStep c m).getLsbD i = (c.getLsbD (i + 1) ^^ (m.getLsbD i && c.getLsbD 0))) ∧
    lsb c = c.getLsbD 0 ∧
    (lfsrStep c m).getLsbD 31 = (m.getLsbD 31 && c.getLsbD 0)

/-- R101: with a mask below 2^B the step stays below 2^B, and with TapRange it does not reach 0. -/
def Obligations.LfsrStepStaysInRange : Prop :=
  ∀ (b : Nat) (c m : Word), 1 ≤ c.toNat → c.toNat < 2 ^ b → m.toNat < 2 ^ b →
    (lfsrStep c m).toNat < 2 ^ b ∧ (m.getLsbD (b - 1) = true → lfsrStep c m ≠ 0)

/-- R102, R37: under TapRange the step is a bijection of the B-bit states with the inverse of R37, it fixes 0, and every state
lies on a cycle of at most 2^B - 1 states. -/
def Obligations.LfsrStepIsBijective : Prop :=
  ∀ (b : Nat) (m : Word), TapRange b m →
    lfsrStep 0 m = 0 ∧
    (∀ c : Word, c.toNat < 2 ^ b → (lfsrStep c m).toNat < 2 ^ b) ∧
    (∀ c d : Word, c.toNat < 2 ^ b → d.toNat < 2 ^ b → lfsrStep c m = lfsrStep d m → c = d) ∧
    (∀ c' : Word, c'.toNat < 2 ^ b →
      (c'.getLsbD (b - 1) = true →
        (((c' ^^^ m) <<< 1) ||| 1).toNat < 2 ^ b ∧ lfsrStep (((c' ^^^ m) <<< 1) ||| 1) m = c') ∧
      (c'.getLsbD (b - 1) = false → (c' <<< 1).toNat < 2 ^ b ∧ lfsrStep (c' <<< 1) m = c')) ∧
    ∀ c : Word, c.toNat < 2 ^ b → ∃ k, 1 ≤ k ∧ k ≤ 2 ^ b - 1 ∧ orbit m c k = c

/-- R36, R103: under TapOK the orbit of 1 is the set of nonzero B-bit states, and every nonzero B-bit state recurs after exactly
the multiples of 2^B - 1 steps. -/
def Obligations.TapOKOrbitIsFull : Prop :=
  ∀ (b : Nat) (m : Word), TapOK b m →
    (∀ c : Word, (1 ≤ c.toNat ∧ c.toNat < 2 ^ b) ↔ ∃ k, k < 2 ^ b - 1 ∧ orbit m 1 k = c) ∧
    ∀ (c : Word) (k : Nat), 1 ≤ c.toNat → c.toNat < 2 ^ b → (orbit m c k = c ↔ 2 ^ b - 1 ∣ k)

/-- R38: the step is division by x modulo the polynomial with the bit pattern of the mask followed by 1: shifted back up by one
place, in 33 bits, the step of c is c, with that pattern added when the low bit of c is 1. -/
def Obligations.StepIsDivisionByX : Prop :=
  ∀ c m : Word,
    ((lfsrStep c m).setWidth 33 <<< 1 : BitVec 33) =
      c.setWidth 33 ^^^ (if c.getLsbD 0 then m ++ 1#1 else 0)

/-- R106 (a), (c): the step of 1 is the mask; the step of an even state is its half, whatever the mask. -/
def Obligations.StepOfOneAndOfEvenStates : Prop :=
  ∀ (c m : Word), lfsrStep 1 m = m ∧ (c.toNat % 2 = 0 → (lfsrStep c m).toNat = c.toNat / 2)

/-! NEXT: 41_next_command.md R90 to R94 -/

/-- R91: NEXT in phase IDLE answers END and writes no register. -/
def Obligations.NextInIdleAnswersEnd : Prop :=
  ∀ s : State, s.phase = .idle → exec .next s = .next { s with rsps := s.rsps ++ [rspWord .ended 0] }

/-- R92: NEXT in phase FIRST emits 0 for length 1, 1 for length 2 and SEED for every other length. -/
def Obligations.NextInFirstEmitsFirstElement : Prop :=
  ∀ s : State, s.phase = .first →
    (s.len.toNat = 1 →
      exec .next s = .next { s with phase := .idle, rsps := s.rsps ++ [rspWord .elem 0] }) ∧
    (s.len.toNat = 2 →
      exec .next s = .next { s with phase := .second, rsps := s.rsps ++ [rspWord .elem 1] }) ∧
    (s.len.toNat ≠ 1 → s.len.toNat ≠ 2 →
      exec .next s = .next { s with phase := .run, rsps := s.rsps ++ [rspWord .elem s.seed] })

/-- R93: NEXT in phase SECOND emits 0 and ends the sequence. -/
def Obligations.NextInSecondEmitsZero : Prop :=
  ∀ s : State, s.phase = .second →
    exec .next s = .next { s with phase := .idle, rsps := s.rsps ++ [rspWord .elem 0] }

/-- R94: NEXT in phase RUN takes the first state k >= 1 steps after CUR that is START or in range, after however many discarded
states: on START it answers END, otherwise it emits that state less 1. k has no bound: there is no iteration cap. -/
def Obligations.NextInRunStopsAtFirstExit : Prop :=
  ∀ (s : State) (k : Nat), s.phase = .run → 1 ≤ k →
    (∀ j, 1 ≤ j → j < k →
      orbit (maskOf s) s.cur j ≠ s.seed + 1 ∧ s.len.toNat < (orbit (maskOf s) s.cur j).toNat) →
    (orbit (maskOf s) s.cur k = s.seed + 1 →
      exec .next s = .next { s with
        cur := s.seed + 1
        phase := .idle
        rsps := s.rsps ++ [rspWord .ended 0] }) ∧
    (orbit (maskOf s) s.cur k ≠ s.seed + 1 → (orbit (maskOf s) s.cur k).toNat ≤ s.len.toNat →
      exec .next s = .next { s with
        cur := orbit (maskOf s) s.cur k
        rsps := s.rsps ++ [rspWord .elem (orbit (maskOf s) s.cur k - 1)] })

/-- R94, R112: NEXT fails to answer exactly in a phase RUN whose loop, run without a cap, never meets START or a value in
range. That the bound of the model's loop is no cap is its deduction, notes/assumptions/8.md. -/
def Obligations.NextFaultsOnlyOnEndlessLoop : Prop :=
  ∀ s : State,
    exec .next s = .fault .discardLoopEndless ↔
      s.phase = .run ∧ ∀ k, 1 ≤ k →
        orbit (maskOf s) s.cur k ≠ s.seed + 1 ∧ s.len.toNat < (orbit (maskOf s) s.cur k).toNat

/-- R99, R54: under the invariant, and TapRange of the word in use, every element NEXT emits is below the length. -/
def Obligations.ElementsAreBelowTheLength : Prop :=
  ∀ (s t : State) (v : Word), StateInv s → (s.phase = .run → TapRange (bitWidth s.len) (maskOf s)) →
    exec .next s = .next t → t.rsps = s.rsps ++ [rspWord .elem v] → v.toNat < s.len.toNat

/-- R103: under the invariant and TapOK, a NEXT in phase RUN answers after at most 2^B - N steps. -/
def Obligations.NextStepsAreBoundedUnderTapOK : Prop :=
  ∀ s : State, StateInv s → s.phase = .run → TapOK (bitWidth s.len) (maskOf s) →
    ∃ t k, exec .next s = .next t ∧ 1 ≤ k ∧ k ≤ 2 ^ bitWidth s.len - s.len.toNat ∧
      t.cur = orbit (maskOf s) s.cur k ∧
      ∀ j, 1 ≤ j → j < k → s.len.toNat < (orbit (maskOf s) s.cur j).toNat

/-! Frames: 10_state.md R11 to R14, R19 -/

/-- R12, R13, R14, R32: what NEXT leaves unchanged. LEN, SEED, the ROM, the requests, the answers and the host's list never
change; CUR changes in phase RUN only; the responses given before stay. -/
def Obligations.NextFrame : Prop :=
  ∀ s t : State, exec .next s = .next t →
    t.len = s.len ∧ t.seed = s.seed ∧ t.taps = s.taps ∧ (∀ i, romRead t i = romRead s i) ∧
    t.requests = s.requests ∧ t.answers = s.answers ∧ t.inputs = s.inputs ∧
    (s.phase ≠ .run → t.cur = s.cur) ∧ ∃ w, t.rsps = s.rsps ++ [w]

/-- R11, R118, R32, R55: what GEN, GENR and GENS leave unchanged. The ROM and the host's list never change; the requests and the
answers change for GENR only; when the answer is not OK, LEN, SEED and CUR keep their values; the responses given before
stay. -/
def Obligations.StartFrame : Prop :=
  ∀ (i : Instr) (s t : State), i ≠ .next → exec i s = .next t →
    t.taps = s.taps ∧ (∀ j, romRead t j = romRead s j) ∧ t.inputs = s.inputs ∧
    ((∀ length src, i ≠ .genr length src) → t.requests = s.requests ∧ t.answers = s.answers) ∧
    ∃ w, t.rsps = s.rsps ++ [w] ∧
      (w ≠ rspWord .ok 0 → t.phase = .idle ∧ t.len = s.len ∧ t.seed = s.seed ∧ t.cur = s.cur)

/-- R11: the transition table of PHASE for the four commands (illegal words and reset are
`IllegalWordsAnsweredAndNothingWritten` and `ResetReturnsToIdle`). -/
def Obligations.PhaseTransitionTable : Prop :=
  ∀ (i : Instr) (s t : State), exec i s = .next t →
    match i with
    | .gen length => t.phase = if 1 ≤ length.toInt then .first else .idle
    | .gens length arg =>
      t.phase = if 1 ≤ length.toInt ∧ ValidPair length.toInt arg.toInt then .first else .idle
    | .genr length src =>
      t.phase = if 1 ≤ length.toInt ∧ ValidPair length.toInt (drawAnswer src length s).toInt then .first else .idle
    | .next =>
      match s.phase with
      | .idle => t.phase = .idle
      | .first => t.phase = if s.len.toNat = 1 then .idle else if s.len.toNat = 2 then .second else .run
      | .second => t.phase = .idle
      | .run => (t.phase = .run ∧ t.cur ≠ s.seed + 1 ∧ t.cur.toNat ≤ s.len.toNat) ∨
          (t.phase = .idle ∧ t.cur = s.seed + 1)

/-! Whole sequences: 41_next_command.md R103 to R112 -/

/-- R3, R104: for every valid pair, under TapOK of the one word in use when the length is 3 or more, GENS is accepted and
pulling to the end emits each of 0 to N - 1 exactly once. -/
def Obligations.SequenceIsPermutation : Prop :=
  ∀ (length seed : Word) (s : State), ValidPair length.toInt seed.toInt →
    (3 ≤ length.toNat → TapOK (bitWidth length) (romRead s (romIndex length))) →
    ∃ t es, exec (.gens length seed) s = .next t ∧ Emits t es ∧
      (es.map BitVec.toNat).Perm (List.range length.toNat)

/-- R104: under TapRange no element is emitted twice in one invocation. -/
def Obligations.NoElementTwiceUnderTapRange : Prop :=
  ∀ (length seed : Word) (s t u : State) (n : Nat) (es : List Word), ValidPair length.toInt seed.toInt →
    TapRange (bitWidth length) (romRead s (romIndex length)) →
    exec (.gens length seed) s = .next t → pulls n t = .next u → u.rsps = t.rsps ++ es.map (rspWord .elem) →
    es.Nodup

/-- R105: for a length of 3 or more, under TapOK, the sequence of seed S is the sequence of seed 0 rotated to begin at S. -/
def Obligations.SeedRotatesTheSequence : Prop :=
  ∀ (length seed : Word) (s : State), 3 ≤ length.toInt → ValidPair length.toInt seed.toInt →
    TapOK (bitWidth length) (romRead s (romIndex length)) →
    ∃ t₀ t es₀ es k, exec (.gens length 0) s = .next t₀ ∧ Emits t₀ es₀ ∧
      exec (.gens length seed) s = .next t ∧ Emits t es ∧ es₀[k]? = some seed ∧ es = es₀.rotate k

/-- R106 (b): for a length of 3 or more, under TapOK, the sequence of seed 0 ends 2^(B-1) - 1, …, 7, 3, 1. -/
def Obligations.SeedZeroSequenceEndsInPowers : Prop :=
  ∀ (length : Word) (s : State), 3 ≤ length.toInt → TapOK (bitWidth length) (romRead s (romIndex length)) →
    ∃ t es, exec (.gen length) s = .next t ∧ Emits t es ∧
      ((List.range (bitWidth length - 1)).reverse.map fun k => 2 ^ (k + 1) - 1) <:+ es.map BitVec.toNat

/-- R107: for a length of 3 or more, under TapOK, the emitted order is never the ascending order. -/
def Obligations.SequenceIsNeverAscending : Prop :=
  ∀ (length seed : Word) (s : State), 3 ≤ length.toInt → ValidPair length.toInt seed.toInt →
    TapOK (bitWidth length) (romRead s (romIndex length)) →
    ∃ t es, exec (.gens length seed) s = .next t ∧ Emits t es ∧ es.map BitVec.toNat ≠ List.range length.toNat

/-- R110: the dialogues of the lengths 0 to 4; for 3 and 4 under TapOK of the word in use. -/
def Obligations.ShortLengthDialogues : Prop :=
  ∀ s : State,
    (∃ t, exec (.gen 0) s = .next t ∧ t.rsps = s.rsps ++ [rspWord .ok 0] ∧ Emits t []) ∧
    (∃ t, exec (.gen 1) s = .next t ∧ t.rsps = s.rsps ++ [rspWord .ok 0] ∧ Emits t [0]) ∧
    (∃ t, exec (.gen 2) s = .next t ∧ t.rsps = s.rsps ++ [rspWord .ok 0] ∧ Emits t [1, 0]) ∧
    (TapOK 2 (romRead s 0) →
      ∃ t, exec (.gen 3) s = .next t ∧ t.rsps = s.rsps ++ [rspWord .ok 0] ∧ Emits t [0, 2, 1]) ∧
    (TapOK 3 (romRead s 1) →
      ∃ t, exec (.gen 4) s = .next t ∧ t.rsps = s.rsps ++ [rspWord .ok 0] ∧ Emits t [0, 2, 3, 1])

/-- R108: once NEXT has answered END in phase RUN, every later NEXT answers END and changes nothing else. -/
def Obligations.EndedSequenceStaysEnded : Prop :=
  ∀ s t : State, s.phase = .run → exec .next s = .next t → t.rsps = s.rsps ++ [rspWord .ended 0] →
    t.phase = .idle ∧
    ∀ n, pulls n t = .next { t with rsps := t.rsps ++ List.replicate n (rspWord .ended 0) }

/-- R112, first row (R103 is its case w = B): when the highest bit of the mask is bit w - 1 and START is below 2^w, the sequence
ends, after at most 2^w - 1 NEXT commands. -/
def Obligations.SequenceEndsWhenStartIsWithinTheMask : Prop :=
  ∀ (s : State) (w : Nat), StateInv s → s.phase = .run → TapRange w (maskOf s) → (startOf s).toNat < 2 ^ w →
    ∃ n u, n ≤ 2 ^ w - 1 ∧ pulls n s = .next u ∧ u.phase = .idle

/-- R112, second and third row: when START lies above all bits of the mask (the mask 0 included), every NEXT makes one step and
answers ELEM, for ever. -/
def Obligations.SequenceNeverEndsWhenStartIsAboveTheMask : Prop :=
  ∀ (s : State) (w n : Nat), StateInv s → s.phase = .run → (maskOf s).toNat < 2 ^ w → 2 ^ w ≤ (startOf s).toNat →
    ∃ u, pulls n s = .next u ∧ u.phase = .run ∧ u.cur = orbit (maskOf s) s.cur n ∧
      u.rsps = s.rsps ++ (List.range n).map fun j => rspWord .elem (orbit (maskOf s) s.cur (j + 1) - 1)

/-! Reset, the invariant, observation: 10_state.md R22, R23, 70_reset_and_hazards.md -/

/-- R23, R142: after reset PHASE is IDLE, no response and no request has been made; the ROM holds the default table of R39
(PRESUMED, notes/assumptions/1.md). The empty lists are the model's own (DESIGN CHOICE, notes/assumptions/5.md and 7.md).
Nothing is said of LEN, SEED and CUR. -/
def Obligations.ResetLeavesIdle : Prop :=
  State.reset.phase = .idle ∧ State.reset.taps = defaultTaps ∧ State.reset.rsps = [] ∧ State.reset.requests = []

/-- R140: reset, in any phase, leaves PHASE IDLE, gives no response, makes no request and does not touch the ROM. A command that
reset cuts short gives no response either; a request it had already sent stays sent (the model's reading,
notes/assumptions/9.md). -/
def Obligations.ResetReturnsToIdle : Prop :=
  ∀ (s : State) (rest : List Input),
    (s.inputs = .reset :: rest →
      ∃ t, step s = .next t ∧ t.phase = .idle ∧ t.taps = s.taps ∧ t.rsps = s.rsps ∧ t.requests = s.requests ∧
        t.answers = s.answers ∧ t.inputs = rest) ∧
    ∀ (w : CmdWord) (requested : Bool), s.inputs = .resetDuring w requested :: rest →
      ∃ t, step s = .next t ∧ t.phase = .idle ∧ t.taps = s.taps ∧ t.rsps = s.rsps ∧ t.answers = s.answers ∧
        t.inputs = rest ∧ (requested = false → t.requests = s.requests) ∧
        (t.requests = s.requests ∨ ∃ length src, decode w = .ok (.genr length src) ∧ 0 ≤ length.toInt ∧
          t.requests = s.requests ++ [⟨src, length⟩])

/-- R123, R145: while the host sends nothing, nothing changes. That the machine then steps to the same state is the model's
choice, notes/assumptions/6.md. -/
def Obligations.NothingHappensWithoutInput : Prop := ∀ s : State, s.inputs = [] → step s = .next s

/-- R17: in every live phase START is SEED + 1 without a wrap, and lies between 1 and LEN. -/
def Obligations.StartLiesWithinTheLength : Prop :=
  ∀ s : State, StateInv s → s.phase ≠ .idle →
    (startOf s).toNat = s.seed.toNat + 1 ∧ 1 ≤ (startOf s).toNat ∧ (startOf s).toNat ≤ s.len.toNat

/-- R22: the invariant holds after reset. -/
def Obligations.ResetMeetsTheInvariant : Prop := StateInv State.reset

/-- R22: every step keeps the invariant, for every ROM, from every state that meets it. -/
def Obligations.StepKeepsTheInvariant : Prop := ∀ s t : State, StateInv s → step s = .next t → StateInv t

/-- R112, R117, R145: from every state that meets the invariant, whatever the ROM holds, whatever the host sends and whatever
the random source answers, the step answers a next state. -/
def Obligations.InvariantStatesNeverStop : Prop := ∀ s : State, StateInv s → ∃ t, step s = .next t

/-- R21, R23, R150: in phase IDLE the values of LEN, SEED and CUR cannot be observed: two states that differ in them alone give
the same responses and the same requests on RNG for every list of what the host sends. So nothing the host sees rests on
the values the model gives these registers after reset (notes/assumptions/3.md). -/
def Obligations.IdleRegistersAreUnobservable : Prop :=
  ∀ (s : State) (len seed cur : Word) (n : Nat), s.phase = .idle →
    observe (Host.Core.run core n { s with len := len, seed := seed, cur := cur }) =
      observe (Host.Core.run core n s)
end

