-- ==== Sys2Proof/Laws/State.lean ====
section
/-! SUPPORT. What each named update of the state does to each field: one lemma per field and update. -/

namespace Sys2Proof.Machine

section
variable (status : Status) (value : Word) (s : State)

@[simp] theorem respond_phase : (respond status value s).phase = s.phase := rfl
@[simp] theorem respond_len : (respond status value s).len = s.len := rfl
@[simp] theorem respond_seed : (respond status value s).seed = s.seed := rfl
@[simp] theorem respond_cur : (respond status value s).cur = s.cur := rfl
@[simp] theorem respond_taps : (respond status value s).taps = s.taps := rfl
@[simp] theorem respond_inputs : (respond status value s).inputs = s.inputs := rfl
@[simp] theorem respond_rsps : (respond status value s).rsps = s.rsps ++ [rspWord status value] := rfl
@[simp] theorem respond_answers : (respond status value s).answers = s.answers := rfl
@[simp] theorem respond_requests : (respond status value s).requests = s.requests := rfl

end

section
variable (reason : Reason) (value : Word) (s : State)

@[simp] theorem raiseInvalidArgument_phase : (raiseInvalidArgument reason value s).phase = .idle := rfl
@[simp] theorem raiseInvalidArgument_len : (raiseInvalidArgument reason value s).len = s.len := rfl
@[simp] theorem raiseInvalidArgument_seed : (raiseInvalidArgument reason value s).seed = s.seed := rfl
@[simp] theorem raiseInvalidArgument_cur : (raiseInvalidArgument reason value s).cur = s.cur := rfl
@[simp] theorem raiseInvalidArgument_taps : (raiseInvalidArgument reason value s).taps = s.taps := rfl
@[simp] theorem raiseInvalidArgument_inputs : (raiseInvalidArgument reason value s).inputs = s.inputs := rfl
@[simp] theorem raiseInvalidArgument_rsps : (raiseInvalidArgument reason value s).rsps = s.rsps ++ [rspWord (reasonStatus reason) value] := rfl
@[simp] theorem raiseInvalidArgument_answers : (raiseInvalidArgument reason value s).answers = s.answers := rfl
@[simp] theorem raiseInvalidArgument_requests : (raiseInvalidArgument reason value s).requests = s.requests := rfl

end

section
variable (s : State)

@[simp] theorem raiseIllegal_phase : (raiseIllegal s).phase = s.phase := rfl
@[simp] theorem raiseIllegal_len : (raiseIllegal s).len = s.len := rfl
@[simp] theorem raiseIllegal_seed : (raiseIllegal s).seed = s.seed := rfl
@[simp] theorem raiseIllegal_cur : (raiseIllegal s).cur = s.cur := rfl
@[simp] theorem raiseIllegal_taps : (raiseIllegal s).taps = s.taps := rfl
@[simp] theorem raiseIllegal_inputs : (raiseIllegal s).inputs = s.inputs := rfl
@[simp] theorem raiseIllegal_rsps : (raiseIllegal s).rsps = s.rsps ++ [rspWord .illegal 0] := rfl
@[simp] theorem raiseIllegal_answers : (raiseIllegal s).answers = s.answers := rfl
@[simp] theorem raiseIllegal_requests : (raiseIllegal s).requests = s.requests := rfl

end

section
variable (length seed : Word) (s : State)

@[simp] theorem load_phase : (load length seed s).phase = if length = 0 then .idle else .first := rfl
@[simp] theorem load_len : (load length seed s).len = length := rfl
@[simp] theorem load_seed : (load length seed s).seed = seed := rfl
@[simp] theorem load_cur : (load length seed s).cur = seed + 1 := rfl
@[simp] theorem load_taps : (load length seed s).taps = s.taps := rfl
@[simp] theorem load_inputs : (load length seed s).inputs = s.inputs := rfl
@[simp] theorem load_rsps : (load length seed s).rsps = s.rsps ++ [rspWord .ok 0] := rfl
@[simp] theorem load_answers : (load length seed s).answers = s.answers := rfl
@[simp] theorem load_requests : (load length seed s).requests = s.requests := rfl

end

section
variable (src : Source) (bound : Word) (s : State)

@[simp] theorem afterDraw_phase : (afterDraw src bound s).phase = s.phase := rfl
@[simp] theorem afterDraw_len : (afterDraw src bound s).len = s.len := rfl
@[simp] theorem afterDraw_seed : (afterDraw src bound s).seed = s.seed := rfl
@[simp] theorem afterDraw_cur : (afterDraw src bound s).cur = s.cur := rfl
@[simp] theorem afterDraw_taps : (afterDraw src bound s).taps = s.taps := rfl
@[simp] theorem afterDraw_inputs : (afterDraw src bound s).inputs = s.inputs := rfl
@[simp] theorem afterDraw_rsps : (afterDraw src bound s).rsps = s.rsps := rfl
@[simp] theorem afterDraw_answers : (afterDraw src bound s).answers = s.answers.tail := rfl
@[simp] theorem afterDraw_requests : (afterDraw src bound s).requests = s.requests ++ [⟨src, bound⟩] := rfl

end

section
variable (s : State)

@[simp] theorem applyReset_phase : (applyReset s).phase = .idle := rfl
@[simp] theorem applyReset_len : (applyReset s).len = State.reset.len := rfl
@[simp] theorem applyReset_seed : (applyReset s).seed = State.reset.seed := rfl
@[simp] theorem applyReset_cur : (applyReset s).cur = State.reset.cur := rfl
@[simp] theorem applyReset_taps : (applyReset s).taps = s.taps := rfl
@[simp] theorem applyReset_inputs : (applyReset s).inputs = s.inputs := rfl
@[simp] theorem applyReset_rsps : (applyReset s).rsps = s.rsps := rfl
@[simp] theorem applyReset_answers : (applyReset s).answers = s.answers := rfl
@[simp] theorem applyReset_requests : (applyReset s).requests = s.requests := rfl

end

section
variable (w : CmdWord) (requested : Bool) (s : State)

@[simp] theorem cutShort_phase : (cutShort w requested s).phase = .idle := by cases requested <;> rfl
@[simp] theorem cutShort_taps : (cutShort w requested s).taps = s.taps := by cases requested <;> rfl
@[simp] theorem cutShort_inputs : (cutShort w requested s).inputs = s.inputs := by cases requested <;> rfl
@[simp] theorem cutShort_rsps : (cutShort w requested s).rsps = s.rsps := by cases requested <;> rfl
@[simp] theorem cutShort_answers : (cutShort w requested s).answers = s.answers := by cases requested <;> rfl

end

/-- The ROM has one canonical form: two ROMs that read alike at every index are equal data (20_memory.md R30). -/
theorem taps_ext {s t : State} (h : ∀ i, romRead s i = romRead t i) : s.taps = t.taps :=
  Vector.ext fun i hi => h ⟨i, hi⟩

end Sys2Proof.Machine
end

