-- ==== Sys2Proof/Laws/Ops.lean ====
section
/-! SUPPORT. One lemma per shared operation that says everything it can do. -/

namespace Sys2Proof.Machine

/-- Taking an input removes the first of the list and changes nothing else. -/
theorem takeInput_eq_some {s t : State} {i : Input} :
    takeInput s = some (i, t) ↔ ∃ rest, s.inputs = i :: rest ∧ t = { s with inputs := rest } := by
  unfold takeInput
  cases h : s.inputs with
  | nil => simp
  | cons j rest =>
    simp only [Option.some.injEq, Prod.mk.injEq, List.cons.injEq]
    constructor
    · rintro ⟨rfl, rfl⟩
      exact ⟨rest, ⟨rfl, rfl⟩, rfl⟩
    · rintro ⟨_, ⟨rfl, rfl⟩, rfl⟩
      exact ⟨rfl, rfl⟩

/-- Nothing is taken exactly when the host sends nothing. -/
theorem takeInput_eq_none {s : State} : takeInput s = none ↔ s.inputs = [] := by
  unfold takeInput
  cases s.inputs <;> simp

/-- A start command raises what validation reports, or loads the pair. -/
theorem startWith_cases (length seed : Word) (s : State) :
    (∃ reason value, validate length.toInt seed.toInt length seed = some (reason, value) ∧
      startWith length seed s = raiseInvalidArgument reason value s) ∨
    (validate length.toInt seed.toInt length seed = none ∧ startWith length seed s = load length seed s) := by
  unfold startWith
  split
  · next reason value h => exact .inl ⟨reason, value, h, rfl⟩
  · next h => exact .inr ⟨h, rfl⟩

/-- What validation reports, test by test, in the order V1, V2, V3. -/
theorem validate_cases (len seed : Int) (lenWord seedWord : Word) :
    (len < 0 ∧ validate len seed lenWord seedWord = some (.lengthNeg, lenWord)) ∨
    (0 ≤ len ∧ seed < 0 ∧ validate len seed lenWord seedWord = some (.seedNeg, seedWord)) ∨
    (0 ≤ len ∧ 0 ≤ seed ∧ len ≤ seed ∧ ¬(seed = 0 ∧ len = 0) ∧
      validate len seed lenWord seedWord = some (.seedRange, seedWord)) ∨
    (0 ≤ len ∧ 0 ≤ seed ∧ (seed < len ∨ seed = 0 ∧ len = 0) ∧ validate len seed lenWord seedWord = none) := by
  unfold validate
  split
  · next h => exact .inl ⟨h, rfl⟩
  · next h1 =>
    split
    · next h => exact .inr (.inl ⟨by omega, h, rfl⟩)
    · next h2 =>
      split
      · next h => exact .inr (.inr (.inl ⟨by omega, by omega, h.1, h.2, rfl⟩))
      · next h => exact .inr (.inr (.inr ⟨by omega, by omega, by omega, rfl⟩))

/-- The answer of a draw is the next answer that stands ready, whichever source is asked. -/
theorem drawAnswer_cons {s : State} {r : Word} {rest : List Word} (h : s.answers = r :: rest) (src : Source)
    (bound : Word) : drawAnswer src bound s = r := by
  simp [drawAnswer, h]

/-- The ROM index is the bit width less 2. -/
@[simp] theorem romIndex_val (len : Word) : (romIndex len).val = bitWidth len - 2 := rfl

section
variable (status : Status) (value : Word) (s : State)

/-- MASK depends on LEN and the ROM only (R16), START on SEED only (R17). -/
theorem maskOf_congr {s t : State} (hl : s.len = t.len) (ht : s.taps = t.taps) : maskOf s = maskOf t := by
  simp [maskOf, romRead, hl, ht]

@[simp] theorem maskOf_respond : maskOf (respond status value s) = maskOf s := rfl
@[simp] theorem startOf_respond : startOf (respond status value s) = startOf s := rfl
@[simp] theorem maskOf_raiseIllegal : maskOf (raiseIllegal s) = maskOf s := rfl
@[simp] theorem startOf_raiseIllegal : startOf (raiseIllegal s) = startOf s := rfl
@[simp] theorem maskOf_set_cur (c : Word) : maskOf { s with cur := c } = maskOf s := rfl
@[simp] theorem startOf_set_cur (c : Word) : startOf { s with cur := c } = startOf s := rfl
@[simp] theorem maskOf_set_phase (p : Phase) : maskOf { s with phase := p } = maskOf s := rfl
@[simp] theorem startOf_set_phase (p : Phase) : startOf { s with phase := p } = startOf s := rfl
@[simp] theorem maskOf_set_inputs (l : List Input) : maskOf { s with inputs := l } = maskOf s := rfl
@[simp] theorem startOf_set_inputs (l : List Input) : startOf { s with inputs := l } = startOf s := rfl

end

/-- The bit width is at least 2. -/
theorem two_le_bitWidth (len : Word) : 2 ≤ bitWidth len := Nat.le_max_left _ _

/-- The bit width is at most 32. -/
theorem bitWidth_le (len : Word) : bitWidth len ≤ 32 := by
  have := bitWidth_sub_two_lt len
  omega

end Sys2Proof.Machine
end

