-- ==== Sys2Proof/Laws/Loop.lean ====
section
/-! SUPPORT. The discard loop of NEXT in terms of the orbit of the register. -/

namespace Sys2Proof.Machine

@[simp] theorem orbit_zero (m c : Word) : orbit m c 0 = c := rfl

theorem orbit_succ (m c : Word) (k : Nat) : orbit m c (k + 1) = lfsrStep (orbit m c k) m := rfl

/-- Steps add up. -/
theorem orbit_add (m c : Word) (j k : Nat) : orbit m c (j + k) = orbit m (orbit m c j) k := by
  induction k with
  | zero => rfl
  | succ k ih => rw [← Nat.add_assoc, orbit_succ, orbit_succ, ih]

/-- One step first, then the rest. -/
theorem orbit_step (m c : Word) (k : Nat) : orbit m (lfsrStep c m) k = orbit m c (k + 1) := by
  rw [Nat.add_comm, orbit_add]
  rfl

theorem wrap_eq_true {c start : Word} : wrap c start = true ↔ c = start := by simp [wrap]

theorem oor_eq_true {c len : Word} : oor c len = true ↔ len.toNat < c.toNat := by simp [oor]

/-- The state `j` steps after `c` is passed over: it is not START and it is out of range (R94). -/
abbrev Discarded (mask start len c : Word) (j : Nat) : Prop :=
  orbit mask c j ≠ start ∧ len.toNat < (orbit mask c j).toNat

/-- Everything the loop can do within its fuel: it passes over all states, or it stops at the first it does not pass over. -/
theorem discardLoop_cases (mask start len : Word) (fuel : Nat) (c : Word) :
    (discardLoop mask start len fuel c = none ∧ ∀ j, 1 ≤ j → j ≤ fuel → Discarded mask start len c j) ∨
    ∃ k, 1 ≤ k ∧ k ≤ fuel ∧ (∀ j, 1 ≤ j → j < k → Discarded mask start len c j) ∧
      ((orbit mask c k = start ∧ discardLoop mask start len fuel c = some (.wrap start)) ∨
       (orbit mask c k ≠ start ∧ (orbit mask c k).toNat ≤ len.toNat ∧
         discardLoop mask start len fuel c = some (.emit (orbit mask c k)))) := by
  induction fuel generalizing c with
  | zero => exact .inl ⟨rfl, fun j h1 h2 => by omega⟩
  | succ fuel ih =>
    have shift : ∀ j, 1 ≤ j → Discarded mask start len (lfsrStep c mask) j → Discarded mask start len c (j + 1) := by
      intro j _ h
      simpa only [Discarded, orbit_step] using h
    by_cases hw : wrap (lfsrStep c mask) start = true
    · refine .inr ⟨1, by omega, by omega, fun j h1 h2 => by omega, .inl ⟨wrap_eq_true.1 hw, ?_⟩⟩
      simp only [discardLoop, hw, if_true]
      rw [wrap_eq_true.1 hw]
    · have hw' : lfsrStep c mask ≠ start := fun h => hw (wrap_eq_true.2 h)
      by_cases ho : oor (lfsrStep c mask) len = true
      · have first : Discarded mask start len c 1 := ⟨hw', oor_eq_true.1 ho⟩
        have below : ∀ n, (∀ j, 1 ≤ j → j < n → Discarded mask start len (lfsrStep c mask) j) →
            ∀ j, 1 ≤ j → j < n + 1 → Discarded mask start len c j := by
          intro n h j h1 h2
          obtain rfl | h3 := Nat.eq_or_lt_of_le h1
          · exact first
          · have := shift (j - 1) (by omega) (h (j - 1) (by omega) (by omega))
            rwa [Nat.sub_add_cancel h1] at this
        have unfolded : discardLoop mask start len (fuel + 1) c =
            discardLoop mask start len fuel (lfsrStep c mask) := by
          simp [discardLoop, hw, ho]
        rw [unfolded]
        obtain ⟨hn, hall⟩ | ⟨k, hk1, hk2, hall, hexit⟩ := ih (lfsrStep c mask)
        · exact .inl ⟨hn, fun j h1 h2 =>
            below (fuel + 1) (fun j h1 h2 => hall j h1 (by omega)) j h1 (by omega)⟩
        · exact .inr ⟨k + 1, by omega, by omega, below k hall, by simpa only [orbit_step] using hexit⟩
      · refine .inr ⟨1, by omega, by omega, fun j h1 h2 => by omega, .inr ⟨hw', ?_, ?_⟩⟩
        · exact Nat.not_lt.1 fun h => ho (oor_eq_true.2 h)
        · simp [discardLoop, hw, ho, orbit]

end Sys2Proof.Machine
end

