-- ==== Sys2Proof/Laws/PerInstr.lean ====
section
/-! SUPPORT. Laws made per instruction (LAWS.json). -/

namespace Sys2Proof.Laws.EncodeSelectsRow

/-- The encoded word selects the instruction's row of 30_encoding.md R48. -/
def Statement (i : Instr) : Prop := i.row.selects (encode i) = true

theorem gen (length : Word) : Statement (.gen length) := by
  have hm : (0xF00000000FFFFFFFF : CmdWord) = (0xF#4 ++ 0#32) ++ 0xFFFFFFFF#32 := by decide
  have hp : (0x10000000000000000 : CmdWord) = (0x1#4 ++ 0#32) ++ 0#32 := by decide
  simp only [Statement, Instr.row, rowGEN, Row.selects, encode, beq_iff_eq]
  rw [hm, hp, BitVec.and_append, BitVec.and_append]
  simp

theorem genr (length : Word) (src : Source) : Statement (.genr length src) := by
  have hm : (0xF00000000FFFFFFFE : CmdWord) = (0xF#4 ++ 0#32) ++ (0x7FFFFFFF#31 ++ 0#1) := by decide
  have hp : (0x20000000000000000 : CmdWord) = (0x2#4 ++ 0#32) ++ (0#31 ++ 0#1) := by decide
  simp only [Statement, Instr.row, rowGENR, Row.selects, encode, beq_iff_eq]
  rw [hm, hp, BitVec.and_append, BitVec.and_append, BitVec.and_append]
  simp

theorem gens (length arg : Word) : Statement (.gens length arg) := by
  have hm : (0xF0000000000000000 : CmdWord) = (0xF#4 ++ 0#32) ++ 0#32 := by decide
  have hp : (0x30000000000000000 : CmdWord) = (0x3#4 ++ 0#32) ++ 0#32 := by decide
  simp only [Statement, Instr.row, rowGENS, Row.selects, encode, beq_iff_eq]
  rw [hm, hp, BitVec.and_append, BitVec.and_append]
  simp

theorem next : Statement .next := by
  unfold Statement
  decide

end Sys2Proof.Laws.EncodeSelectsRow
end

