-- ==== Sys2Proof/Laws/Step.lean ====
section
/-! SUPPORT. What NEXT and a step can do, said once. -/

namespace Sys2Proof.Machine

/-- Everything NEXT can do, by phase (R91 to R94). -/
theorem execNext_cases (s : State) :
    (s.phase = .idle ∧ execNext s = .next (respond .ended 0 s)) ∨
    (s.phase = .first ∧ execNext s = .next (emitFirst s)) ∨
    (s.phase = .second ∧ execNext s = .next (respond .elem 0 { s with phase := .idle })) ∨
    (s.phase = .run ∧ execNext s = emitRun s) := by
  unfold execNext
  cases h : s.phase <;> simp

/-- Everything NEXT in phase RUN can do (R94): it stops at the first state `k >= 1` steps after CUR that is START or in range,
or it passes over every state within the loop's bound. -/
theorem emitRun_cases (s : State) :
    (emitRun s = .fault .discardLoopEndless ∧
      ∀ j, 1 ≤ j → j ≤ loopBound → Discarded (maskOf s) (startOf s) s.len s.cur j) ∨
    ∃ k, 1 ≤ k ∧ k ≤ loopBound ∧ (∀ j, 1 ≤ j → j < k → Discarded (maskOf s) (startOf s) s.len s.cur j) ∧
      ((orbit (maskOf s) s.cur k = startOf s ∧
          emitRun s = .next (respond .ended 0 { s with cur := startOf s, phase := .idle })) ∨
       (orbit (maskOf s) s.cur k ≠ startOf s ∧ (orbit (maskOf s) s.cur k).toNat ≤ s.len.toNat ∧
          emitRun s = .next (respond .elem (orbit (maskOf s) s.cur k - 1)
            { s with cur := orbit (maskOf s) s.cur k }))) := by
  obtain ⟨hn, hall⟩ | ⟨k, h1, h2, hall, ⟨he, hx⟩ | ⟨he, hr, hx⟩⟩ :=
    discardLoop_cases (maskOf s) (startOf s) s.len loopBound s.cur
  · exact .inl ⟨by simp [emitRun, hn], hall⟩
  · exact .inr ⟨k, h1, h2, hall, .inl ⟨he, by simp [emitRun, hx]⟩⟩
  · exact .inr ⟨k, h1, h2, hall, .inr ⟨he, hr, by simp [emitRun, hx]⟩⟩

/-- Everything a step can do. -/
theorem step_cases (s : State) :
    (s.inputs = [] ∧ step s = .next s) ∨
    ∃ rest, (∃ w i, s.inputs = .command w :: rest ∧ decode w = .ok i ∧ step s = exec i { s with inputs := rest }) ∨
      (∃ w e, s.inputs = .command w :: rest ∧ decode w = .error e ∧
        step s = .next (raiseIllegal { s with inputs := rest })) ∨
      (s.inputs = .reset :: rest ∧ step s = .next (applyReset { s with inputs := rest })) ∨
      (∃ w requested, s.inputs = .resetDuring w requested :: rest ∧
        step s = .next (cutShort w requested { s with inputs := rest })) := by
  cases h : s.inputs with
  | nil => exact .inl ⟨rfl, by simp [step, takeInput, h]⟩
  | cons i rest =>
    refine .inr ⟨rest, ?_⟩
    cases i with
    | command w =>
      cases hd : decode w with
      | ok i => exact .inl ⟨w, i, rfl, hd, by simp [step, takeInput, h, hd]⟩
      | error e => exact .inr (.inl ⟨w, e, rfl, hd, by simp [step, takeInput, h, hd]⟩)
    | reset => exact .inr (.inr (.inl ⟨rfl, by simp [step, takeInput, h]⟩))
    | resetDuring w requested => exact .inr (.inr (.inr ⟨w, requested, rfl, by simp [step, takeInput, h]⟩))

end Sys2Proof.Machine
end

