-- ==== Sys2Proof/Tests/Slice0.lean ====
section
/-! SUPPORT. The model's own tests: words and single steps whose expected results come from 95_test_vectors.md, the smoke test
of the well-formedness checks, and for each statement with hypotheses a witness that meets them. -/

namespace Sys2Proof.Tests

open Sys2Proof.Machine

/-! Well-formed words: each check of 30_encoding.md R50 refuses a word. -/

theorem test_wellFormed_refuses_reserved_opcodes :
    wellFormedWord 0x00000000000000000 = false ∧ wellFormedWord 0x50000000100000001 = false ∧
      wellFormedWord 0xFFFFFFFFFFFFFFFFF = false := by decide
theorem test_wellFormed_refuses_gen_arg : wellFormedWord 0x10000000400000001 = false := by decide
theorem test_wellFormed_refuses_genr_reserved : wellFormedWord 0x20000000400000002 = false := by decide
theorem test_wellFormed_refuses_next_arg : wellFormedWord 0x40000000000000001 = false := by decide
theorem test_wellFormed_refuses_next_length : wellFormedWord 0x40000000100000000 = false := by decide
theorem test_wellFormed_accepts :
    wellFormedWord 0x1FFFFFFFF00000000 = true ∧ wellFormedWord 0x20000000500000001 = true ∧
      wellFormedWord 0x300000004FFFFFFFF = true ∧ wellFormedWord 0x40000000000000000 = true := by decide

/-! Decoding: V-E1, V-E3, V-E4, V-E6, V-E8, and the illegal words V-E9 to V-E14. -/

theorem test_decode_gen : decode 0x10000000400000000 = .ok (.gen 4) := by decide
theorem test_decode_genr_ext : decode 0x20000000500000001 = .ok (.genr 5 .ext) := by decide
theorem test_decode_genr_dflt : decode 0x20000000500000000 = .ok (.genr 5 .dflt) := by decide
theorem test_decode_gens : decode 0x300000004FFFFFFFF = .ok (.gens 4 0xFFFFFFFF) := by decide
theorem test_decode_next : decode 0x40000000000000000 = .ok .next := by decide
theorem test_decode_illegal :
    decode 0x00000000000000000 = .error .reservedOpcode ∧ decode 0x50000000100000001 = .error .reservedOpcode ∧
      decode 0x10000000400000001 = .error .genArgNotZero ∧
      decode 0x20000000400000002 = .error .genrReservedNotZero ∧
      decode 0x40000000000000001 = .error .nextArgNotZero ∧
      decode 0x40000000100000000 = .error .nextLengthNotZero := by decide
theorem test_encode_words :
    encode (.gen 0xFFFFFFFF) = 0x1FFFFFFFF00000000 ∧ encode (.genr 5 .ext) = 0x20000000500000001 ∧
      encode (.gens 10 7) = 0x30000000A00000007 ∧ encode .next = 0x40000000000000000 := by decide
theorem test_decodeTableWord :
    decodeTableWord 72 0x30000000A00000007 = some (.gens 10 7) ∧ decodeTableWord 68 0x50000000000000000 = none := by
  decide

/-- Response words V-E22, V-E25, V-E28. -/
theorem test_response_words :
    rspWord .elem 9 = 0x100000009 ∧ rspWord .errLengthNeg 0xFFFFFFFF = 0x8FFFFFFFF ∧
      rspWord .illegal 0 = 0xF00000000 := by decide

/-- The codes of R11. -/
theorem test_phase_codes : [Phase.idle, .first, .second, .run].map phaseCode = [0, 1, 2, 3] := by decide

/-! Logic: V-B, V-N. -/

/-- V-B, the edges of the selector. -/
theorem test_bitWidth :
    [3, 4, 7, 8, 1000, 65535, 65536, 1073741823, 1073741824, 2147483647].map bitWidth =
      [2, 3, 3, 4, 10, 16, 17, 30, 31, 31] := by decide

/-- V-N4, V-N12, V-N13, V-N14, V-N17, V-N20. -/
theorem test_lfsrStep :
    lfsrStep 0x7 0x6 = 0x5 ∧ lfsrStep 0x7FFFFFFF 0x48000000 = 0x77FFFFFF ∧
      lfsrStep 0xFFFFFFFF 0x80200003 = 0xFFDFFFFC ∧ lfsrStep 0x80000000 0x80200003 = 0x40000000 ∧
      lfsrStep 0xFFFFFFFE 0xFFFFFFFF = 0x7FFFFFFF ∧ lfsrStep 0x401 0x500 = 0x700 := by decide

/-! Single steps. -/

/-- A state with the default table and one response given, the element less 1 of CUR. -/
def at4 (phase : Phase) (len seed cur : Word) : State :=
  { State.reset with phase := phase, len := len, seed := seed, cur := cur, rsps := [rspWord .elem (cur - 1)] }

/-- The registers and the last response of a next state. -/
def view : Host.Outcome State Fault Refusal → Option (Phase × Word × Word × Word × Option RspWord)
  | .next s => some (s.phase, s.len, s.seed, s.cur, s.rsps.getLast?)
  | .fault _ => none
  | .refused _ => none

/-- V-S1: the pair (0, 0) is the exception of V3. -/
theorem test_gen_zero : view (exec (.gen 0) (at4 .run 4 0 3)) = some (.idle, 0, 0, 1, some 0x000000000) := by decide
/-- R73's example: GEN -1 leaves the registers. -/
theorem test_gen_negative :
    view (exec (.gen 0xFFFFFFFF) (at4 .run 4 0 3)) = some (.idle, 4, 0, 3, some 0x8FFFFFFFF) := by decide
/-- V-S16: the largest pair. -/
theorem test_gens_largest :
    view (exec (.gens 0x7FFFFFFF 0x7FFFFFFE) (at4 .run 4 0 3)) =
      some (.first, 0x7FFFFFFF, 0x7FFFFFFE, 0x7FFFFFFF, some 0x000000000) := by decide
/-- V-S15: a seed word with bit 31 set is negative. -/
theorem test_gens_negative_seed :
    view (exec (.gens 5 0x80000000) (at4 .run 4 0 3)) = some (.idle, 4, 0, 3, some 0x980000000) := by decide
/-- V-R1: a good answer. -/
theorem test_genr_draw :
    view (exec (.genr 5 .ext) { at4 .idle 0 0 0 with answers := [2] }) = some (.first, 5, 2, 3, some 0x000000000) := by
  decide
/-- V-R6: an answer that breaks the contract. -/
theorem test_genr_bad_answer :
    view (exec (.genr 0 .ext) { at4 .run 4 0 3 with answers := [1] }) = some (.idle, 4, 0, 3, some 0xA00000001) := by
  decide
/-- V-X8: two discards, then an element. -/
theorem test_next_discards : view (exec .next (at4 .run 4 0 3)) = some (.run, 4, 0, 4, some 0x100000003) := by decide
/-- V-X9: START is met. -/
theorem test_next_end : view (exec .next (at4 .run 4 0 2)) = some (.idle, 4, 0, 1, some 0x200000000) := by decide

/-- P5, row 5: an illegal word in mid-sequence changes no register. -/
theorem test_step_illegal :
    view (step { at4 .run 10 0 3 with inputs := [.command 0xFFFFFFFFFFFFFFFFF] }) =
      some (.run, 10, 0, 3, some 0xF00000000) := by decide
/-- P6, row 1, as the first command after reset. -/
theorem test_step_genr :
    view (step ({ State.reset with answers := [2] }.withFetchWord 72 0x20000000500000001)) =
      some (.first, 5, 2, 3, some 0x000000000) := by decide
/-! Witnesses: each meets all hypotheses of the statement it is named after. -/

/-- (RUN, 4, 0, 3) of P1, row 3, under the default table. -/
theorem run4_inv : StateInv (at4 .run 4 0 3) :=
  ⟨by decide, by decide, by decide, by decide, fun _ => by decide, by decide, 2, by decide, by decide⟩

theorem first4_inv : StateInv (at4 .first 4 3 4) := ⟨by decide, by decide, by decide, by decide⟩

theorem second_inv : StateInv (at4 .second 2 1 2) := ⟨by decide, by decide⟩

theorem tapOK_two : TapOK 2 3 := by decide

theorem tapOK_three : TapOK 3 6 := by decide

theorem witness_EncodeDecodeRoundTrip : decode 0x37FFFFFFF7FFFFFFE = .ok (.gens 0x7FFFFFFF 0x7FFFFFFE) := by decide

theorem witness_DecodeAcceptsExactlyTheRows :
    decode 0x20000000500000001 = .ok (.genr 5 .ext) ∧ rowGENR ∈ rows ∧ rowGENR.selects 0x20000000500000001 = true ∧
      (Instr.genr 5 .ext).row = rowGENR := by decide

theorem witness_RowsAreDisjoint : rowNEXT ∈ rows ∧ rowNEXT.selects 0x40000000000000000 = true := by decide

/-- One word for each clause of R50's list, at its boundary. -/
theorem witness_IllegalWordsAnsweredAndNothingWritten :
    (wellFormedWord 0x0FFFFFFFFFFFFFFFF = false ∧ opcOf 0x0FFFFFFFFFFFFFFFF = 0x0) ∧
    (wellFormedWord 0x50000000000000000 = false ∧ 5 ≤ (opcOf 0x50000000000000000).toNat) ∧
    (wellFormedWord 0xF0000000000000000 = false ∧ 5 ≤ (opcOf 0xF0000000000000000).toNat) ∧
    (wellFormedWord 0x10000000080000000 = false ∧ argOf 0x10000000080000000 ≠ 0) ∧
    (wellFormedWord 0x20000000000000002 = false ∧ (argOf 0x20000000000000002).extractLsb' 1 31 ≠ 0) ∧
    (wellFormedWord 0x48000000000000000 = false ∧ lengthOf 0x48000000000000000 ≠ 0) ∧
    (wellFormedWord 0x40000000000000001 = false ∧ argOf 0x40000000000000001 ≠ 0) ∧
    (wellFormedWord 0x20000000000000001 = true ∧ wellFormedWord 0x3FFFFFFFFFFFFFFFF = true) ∧
    { State.reset with inputs := [.command 0x40000000000000001] }.inputs = .command 0x40000000000000001 :: [] := by
  decide

theorem witness_StepRunsTheDecodedInstruction :
    { State.reset with inputs := [.command 0x40000000000000000] }.inputs = .command 0x40000000000000000 :: [] ∧
      decode 0x40000000000000000 = .ok .next := by decide

theorem witness_EachCommandGivesOneResponse :
    (∃ t, exec (.gen 4) State.reset = .next t) ∧ (∃ t, exec (.genr 4 .dflt) State.reset = .next t) ∧
      (∃ t, exec (.gens 4 4) State.reset = .next t) ∧ ∃ t, exec .next State.reset = .next t :=
  ⟨⟨_, rfl⟩, ⟨_, rfl⟩, ⟨_, rfl⟩, ⟨_, rfl⟩⟩

theorem witness_ValidationReportsFirstFailingTest :
    ((-1 : Int) < 0) ∧ ((0 : Int) ≤ 0 ∧ (-1 : Int) < 0) ∧ ((0 : Int) < 1) ∧ ((1 : Int) ≤ 1 ∧ (0 : Int) ≤ 0 ∧ (0 : Int) < 1) ∧
      ((1 : Int) ≤ 1 ∧ (1 : Int) ≤ 1) := by decide

theorem witness_GenLoadsSeedZero : 0 ≤ (0 : Word).toInt ∧ 0 ≤ (0x7FFFFFFF : Word).toInt := by decide

theorem witness_GensLoadsExplicitSeed :
    ValidPair (0 : Word).toInt (0 : Word).toInt ∧ ValidPair (1 : Word).toInt (0 : Word).toInt ∧
      ValidPair (0x7FFFFFFF : Word).toInt (0x7FFFFFFE : Word).toInt := by decide

theorem witness_GenrLoadsDrawnSeed :
    drawAnswer .ext 5 { State.reset with answers := [4] } = 4 ∧ ValidPair (5 : Word).toInt (4 : Word).toInt := by decide

theorem witness_GenRaisesOnNegativeLength :
    (0xFFFFFFFF : Word).toInt < 0 ∧ (0x80000000 : Word).toInt < 0 := by decide

theorem witness_GensRaisesInvalidArgument :
    (0x80000000 : Word).toInt < 0 ∧
    (0 ≤ (0 : Word).toInt ∧ (0xFFFFFFFF : Word).toInt < 0) ∧
    (0 ≤ (0 : Word).toInt ∧ (0 : Word).toInt ≤ (1 : Word).toInt ∧ ¬((1 : Word).toInt = 0 ∧ (0 : Word).toInt = 0)) ∧
    (0 ≤ (4 : Word).toInt ∧ (4 : Word).toInt ≤ (4 : Word).toInt ∧ ¬((4 : Word).toInt = 0 ∧ (4 : Word).toInt = 0)) := by
  decide

theorem witness_GenrRaisesInvalidArgument :
    (drawAnswer .ext 0xFFFFFFFD { State.reset with answers := [0] } = 0 ∧ (0xFFFFFFFD : Word).toInt < 0) ∧
    (drawAnswer .dflt 5 { State.reset with answers := [0xFFFFFFFF] } = 0xFFFFFFFF ∧
      0 ≤ (5 : Word).toInt ∧ (0xFFFFFFFF : Word).toInt < 0) ∧
    (drawAnswer .ext 5 { State.reset with answers := [5] } = 5 ∧ 0 ≤ (5 : Word).toInt ∧
      (5 : Word).toInt ≤ (5 : Word).toInt ∧ ¬((5 : Word).toInt = 0 ∧ (5 : Word).toInt = 0)) := by decide

theorem witness_ConformingSourceAlwaysAccepted :
    (0 ≤ (5 : Word).toInt ∧ RngOK 5 (drawAnswer .ext 5 { State.reset with answers := [4] })) ∧
    (0 ≤ (0 : Word).toInt ∧ RngOK 0 (drawAnswer .dflt 0 { State.reset with answers := [0] })) := by decide

theorem witness_RequestsAreExactlyThese :
    (∃ t, exec (.genr 4 .ext) State.reset = .next t) ∧
    { State.reset with inputs := [.command 0x20000000000000002] }.inputs = .command 0x20000000000000002 :: [] ∧
    wellFormedWord 0x20000000000000002 = false ∧
    ∃ t, step { State.reset with inputs := [.command 0x20000000000000002] } = .next t :=
  ⟨⟨_, rfl⟩, rfl, by decide, ⟨_, rfl⟩⟩

theorem witness_AnswersDependOnOperandsAndRomOnly :
    (Instr.genr 4 .ext ≠ .next) ∧ (at4 .run 4 0 3).taps = State.reset.taps ∧
    (∀ length src, Instr.genr 4 .ext = .genr length src →
      drawAnswer src length { at4 .run 4 0 3 with answers := [2] } =
        drawAnswer src length { State.reset with answers := [2] }) ∧
    (∃ t₁ u₁, exec (.genr 4 .ext) { at4 .run 4 0 3 with answers := [2] } = .next t₁ ∧ pulls 1 t₁ = .next u₁) ∧
    ∃ t₂, exec (.genr 4 .ext) { State.reset with answers := [2] } = .next t₂ :=
  ⟨by decide, rfl, fun _ _ _ => rfl, ⟨_, _, rfl, rfl⟩, ⟨_, rfl⟩⟩

theorem witness_BitWidthIsLeast :
    (2 ≤ 31 ∧ (0x7FFFFFFF : Word).toNat ≤ 2 ^ 31 - 1) ∧ 2 ≤ (2 : Word).toNat ∧ (0x7FFFFFFF : Word).toNat < 2 ^ 31 := by
  decide

theorem witness_RomIsNeverWritten : ∃ t, step State.reset = .next t := ⟨_, rfl⟩

theorem witness_LfsrStepByFormulaCaseAndBit :
    lsb 6 = false ∧ lsb 7 = true ∧ 0 ≤ 30 ∧ 30 ≤ 30 := by decide

theorem witness_LfsrStepStaysInRange :
    1 ≤ (0xFFFFFFFF : Word).toNat ∧ (0xFFFFFFFF : Word).toNat < 2 ^ 32 ∧ (0x80200003 : Word).toNat < 2 ^ 32 ∧
      (0x80200003 : Word).getLsbD (32 - 1) = true := by decide

theorem witness_LfsrStepIsBijective :
    TapRange 3 6 ∧ ((7 : Word).toNat < 2 ^ 3 ∧ (7 : Word).getLsbD (3 - 1) = true) ∧
      ((3 : Word).toNat < 2 ^ 3 ∧ (3 : Word).getLsbD (3 - 1) = false) ∧
      (lfsrStep 7 6 = lfsrStep 7 6 ∧ TapRange 32 0x80200003) := by decide

theorem witness_TapOKOrbitIsFull : TapOK 3 6 ∧ 1 ≤ (7 : Word).toNat ∧ (7 : Word).toNat < 2 ^ 3 := by decide

theorem witness_StepOfOneAndOfEvenStates : (0xFFFFFFFE : Word).toNat % 2 = 0 := by decide

theorem witness_NextInIdleAnswersEnd : State.reset.phase = .idle := rfl

theorem witness_NextInFirstEmitsFirstElement :
    (at4 .first 1 0 1).phase = .first ∧ (at4 .first 1 0 1).len.toNat = 1 ∧
    (at4 .first 2 1 2).phase = .first ∧ (at4 .first 2 1 2).len.toNat = 2 ∧
    (at4 .first 3 2 3).phase = .first ∧ (at4 .first 3 2 3).len.toNat ≠ 1 ∧ (at4 .first 3 2 3).len.toNat ≠ 2 := by decide

theorem witness_NextInSecondEmitsZero : (at4 .second 2 1 2).phase = .second := rfl

/-- V-X8 for the exit on a value in range after two discards, V-X9 for the exit on START at once. -/
theorem witness_NextInRunStopsAtFirstExit :
    ((at4 .run 4 0 3).phase = .run ∧
      (∀ j, j < 3 → 1 ≤ j → orbit (maskOf (at4 .run 4 0 3)) (at4 .run 4 0 3).cur j ≠ (at4 .run 4 0 3).seed + 1 ∧
        (at4 .run 4 0 3).len.toNat < (orbit (maskOf (at4 .run 4 0 3)) (at4 .run 4 0 3).cur j).toNat) ∧
      orbit (maskOf (at4 .run 4 0 3)) (at4 .run 4 0 3).cur 3 ≠ (at4 .run 4 0 3).seed + 1 ∧
      (orbit (maskOf (at4 .run 4 0 3)) (at4 .run 4 0 3).cur 3).toNat ≤ (at4 .run 4 0 3).len.toNat) ∧
    ((at4 .run 4 0 2).phase = .run ∧ (∀ j, j < 1 → ¬ 1 ≤ j) ∧
      orbit (maskOf (at4 .run 4 0 2)) (at4 .run 4 0 2).cur 1 = (at4 .run 4 0 2).seed + 1) := by decide

/-- A state no run reaches: with the mask 0x8 the state 15 steps to itself, above the length 3 and away from START. -/
def endless : State := { at4 .run 3 0 15 with taps := defaultTaps.set 0 8 }

theorem witness_NextFaultsOnlyOnEndlessLoop :
    endless.phase = .run ∧ ∀ k, 1 ≤ k → orbit (maskOf endless) endless.cur k ≠ endless.seed + 1 ∧
      endless.len.toNat < (orbit (maskOf endless) endless.cur k).toNat := by
  have h : ∀ k, orbit 8 15 k = 15 := fun k => by
    induction k with
    | zero => rfl
    | succ k ih => rw [orbit_succ, ih]; decide
  have hm : maskOf endless = 8 := by decide
  refine ⟨rfl, fun k _ => ?_⟩
  rw [hm]
  change orbit 8 15 k ≠ 0 + 1 ∧ (3 : Word).toNat < (orbit 8 15 k).toNat
  rw [h]
  decide

/-- The fault itself, in the same state. -/
theorem endless_faults : exec .next endless = .fault .discardLoopEndless := by
  have h := witness_NextFaultsOnlyOnEndlessLoop.2
  obtain ⟨hp, -⟩ | ⟨hp, -⟩ | ⟨hp, -⟩ | ⟨-, hr⟩ := execNext_cases endless
  · cases hp
  · cases hp
  · cases hp
  · obtain ⟨hf, -⟩ | ⟨k, hk, -, -, ⟨he, -⟩ | ⟨-, he, -⟩⟩ := emitRun_cases endless
    · exact hr.trans hf
    · exact absurd he (h k hk).1
    · exact absurd (h k hk).2 (Nat.not_lt.2 he)

theorem witness_LastRomWordIsNeverRead :
    ((at4 .run 0x7FFFFFFF 0 1).len.toNat < 2 ^ 31 ∧ ∃ t, exec .next (at4 .run 0x7FFFFFFF 0 1) = .next t) ∧
      (endless.len.toNat < 2 ^ 31 ∧ ∃ f, exec .next endless = .fault f) :=
  ⟨⟨by decide, ⟨_, rfl⟩⟩, ⟨by decide, ⟨_, endless_faults⟩⟩⟩

theorem witness_ElementsAreBelowTheLength :
    StateInv (at4 .run 4 0 3) ∧ TapRange (bitWidth (at4 .run 4 0 3).len) (maskOf (at4 .run 4 0 3)) ∧
      ∃ t, exec .next (at4 .run 4 0 3) = .next t ∧ t.rsps = (at4 .run 4 0 3).rsps ++ [rspWord .elem 3] :=
  ⟨run4_inv, by decide, ⟨_, rfl, by decide⟩⟩

theorem witness_NextStepsAreBoundedUnderTapOK :
    StateInv (at4 .run 4 0 3) ∧ (at4 .run 4 0 3).phase = .run ∧
      TapOK (bitWidth (at4 .run 4 0 3).len) (maskOf (at4 .run 4 0 3)) :=
  ⟨run4_inv, rfl, by decide⟩

theorem witness_NextFrame :
    (∃ t, exec .next (at4 .run 4 0 3) = .next t) ∧ (∃ t, exec .next (at4 .first 4 3 4) = .next t) ∧
      (at4 .first 4 3 4).phase ≠ .run := ⟨⟨_, rfl⟩, ⟨_, rfl⟩, by decide⟩

theorem witness_StartFrame :
    (Instr.gens 4 4 ≠ .next) ∧ (∀ length src, Instr.gens 4 4 ≠ .genr length src) ∧
      (∃ t, exec (.gens 4 4) (at4 .run 4 0 3) = .next t ∧
        t.rsps = (at4 .run 4 0 3).rsps ++ [rspWord .errSeedRange 4] ∧ rspWord .errSeedRange 4 ≠ rspWord .ok 0) :=
  ⟨by decide, nofun, ⟨_, rfl, by decide, by decide⟩⟩

theorem witness_PhaseTransitionTable :
    (∃ t, exec (.gen 1) (at4 .run 4 0 3) = .next t) ∧ (∃ t, exec (.gens 1 0) (at4 .run 4 0 3) = .next t) ∧
    (∃ t, exec (.genr 1 .dflt) (at4 .run 4 0 3) = .next t) ∧ (∃ t, exec .next (at4 .idle 4 0 3) = .next t) ∧
    (∃ t, exec .next (at4 .first 2 0 1) = .next t) ∧ (∃ t, exec .next (at4 .second 2 0 1) = .next t) ∧
    (∃ t, exec .next (at4 .run 4 0 3) = .next t) ∧ ∃ t, exec .next (at4 .run 4 0 2) = .next t :=
  ⟨⟨_, rfl⟩, ⟨_, rfl⟩, ⟨_, rfl⟩, ⟨_, rfl⟩, ⟨_, rfl⟩, ⟨_, rfl⟩, ⟨_, rfl⟩, ⟨_, rfl⟩⟩

theorem witness_SequenceIsPermutation :
    (ValidPair (4 : Word).toInt (3 : Word).toInt ∧ TapOK (bitWidth 4) (romRead State.reset (romIndex 4))) ∧
      (ValidPair (2 : Word).toInt (1 : Word).toInt ∧ ¬ 3 ≤ (2 : Word).toNat) ∧
      ValidPair (0 : Word).toInt (0 : Word).toInt := by decide

theorem witness_NoElementTwiceUnderTapRange :
    ValidPair (4 : Word).toInt (0 : Word).toInt ∧ TapRange (bitWidth 4) (romRead State.reset (romIndex 4)) ∧
      ∃ t u, exec (.gens 4 0) State.reset = .next t ∧ pulls 2 t = .next u ∧
        u.rsps = t.rsps ++ [0, 2].map (rspWord .elem) :=
  ⟨by decide, by decide, ⟨_, _, rfl, rfl, by decide⟩⟩

theorem witness_SeedRotatesTheSequence :
    3 ≤ (3 : Word).toInt ∧ ValidPair (3 : Word).toInt (2 : Word).toInt ∧
      TapOK (bitWidth 3) (romRead State.reset (romIndex 3)) := by decide

theorem witness_SeedZeroSequenceEndsInPowers :
    3 ≤ (4 : Word).toInt ∧ TapOK (bitWidth 4) (romRead State.reset (romIndex 4)) := by decide

theorem witness_SequenceIsNeverAscending :
    3 ≤ (4 : Word).toInt ∧ ValidPair (4 : Word).toInt (0 : Word).toInt ∧
      TapOK (bitWidth 4) (romRead State.reset (romIndex 4)) := by decide

theorem witness_ShortLengthDialogues :
    TapOK 2 (romRead State.reset 0) ∧ TapOK 3 (romRead State.reset 1) := by decide

theorem witness_EndedSequenceStaysEnded :
    (at4 .run 4 0 2).phase = .run ∧
      ∃ t, exec .next (at4 .run 4 0 2) = .next t ∧ t.rsps = (at4 .run 4 0 2).rsps ++ [rspWord .ended 0] :=
  ⟨rfl, ⟨_, rfl, by decide⟩⟩

theorem witness_SequenceEndsWhenStartIsWithinTheMask :
    StateInv (at4 .run 4 0 3) ∧ (at4 .run 4 0 3).phase = .run ∧ TapRange 3 (maskOf (at4 .run 4 0 3)) ∧
      (startOf (at4 .run 4 0 3)).toNat < 2 ^ 3 := ⟨run4_inv, rfl, by decide, by decide⟩

/-- (RUN, 4, 3, 4) after the first element of `GENS 4, 3`, with the mask m at width 3. -/
def withMask3 (m : Word) : State := { at4 .run 4 3 4 with taps := defaultTaps.set 1 m }

theorem withMask3_inv (m : Word) : StateInv (withMask3 m) := by
  have h : 3 ≤ (4 : Word).toNat ∧ (4 : Word).toNat < 2 ^ 31 ∧ (3 : Word).toNat < (4 : Word).toNat ∧
      1 ≤ (4 : Word).toNat ∧ lastElem [rspWord .elem (4 - 1)] = some (4 - 1) := by decide
  exact ⟨h.1, h.2.1, h.2.2.1, Nat.le_refl _, fun _ => h.2.2.2.1, h.2.2.2.2, 0, rfl, fun j h1 h2 => by omega⟩

/-- V-Z3, with w = 2, and V-Z5, with w = 0 (the mask 0). -/
theorem witness_SequenceNeverEndsWhenStartIsAboveTheMask :
    (StateInv (withMask3 2) ∧ (withMask3 2).phase = .run ∧ (maskOf (withMask3 2)).toNat < 2 ^ 2 ∧
      2 ^ 2 ≤ (startOf (withMask3 2)).toNat) ∧
    (StateInv (withMask3 0) ∧ (withMask3 0).phase = .run ∧ (maskOf (withMask3 0)).toNat < 2 ^ 0 ∧
      2 ^ 0 ≤ (startOf (withMask3 0)).toNat) :=
  ⟨⟨withMask3_inv 2, rfl, by decide, by decide⟩, ⟨withMask3_inv 0, rfl, by decide, by decide⟩⟩

theorem witness_ResetReturnsToIdle :
    { at4 .run 4 0 3 with inputs := [.reset] }.inputs = .reset :: [] ∧
      { at4 .run 4 0 3 with inputs := [.resetDuring 0x20000000500000001 true] }.inputs =
        .resetDuring 0x20000000500000001 true :: [] ∧
      decode 0x20000000500000001 = .ok (.genr 5 .ext) ∧ 0 ≤ (5 : Word).toInt := by decide

theorem witness_NothingHappensWithoutInput : State.reset.inputs = [] := rfl

theorem witness_StartLiesWithinTheLength :
    (StateInv (at4 .first 4 3 4) ∧ (at4 .first 4 3 4).phase ≠ .idle) ∧
      (StateInv (at4 .second 2 1 2) ∧ (at4 .second 2 1 2).phase ≠ .idle) ∧
      (StateInv (at4 .run 4 0 3) ∧ (at4 .run 4 0 3).phase ≠ .idle) :=
  ⟨⟨first4_inv, by decide⟩, ⟨second_inv, by decide⟩, ⟨run4_inv, by decide⟩⟩

theorem witness_StepKeepsTheInvariant :
    StateInv { at4 .run 4 0 3 with inputs := [.command 0x40000000000000000] } ∧
      ∃ t, step { at4 .run 4 0 3 with inputs := [.command 0x40000000000000000] } = .next t :=
  ⟨run4_inv, ⟨_, rfl⟩⟩

theorem witness_InvariantStatesNeverStop : StateInv (at4 .run 4 0 3) ∧ StateInv (at4 .idle 0xFFFFFFFF 7 0) := ⟨run4_inv, trivial⟩

theorem witness_IdleRegistersAreUnobservable : (at4 .idle 4 0 3).phase = .idle := rfl

end Sys2Proof.Tests
end

section
/-! SUPPORT. The family 00_scope.md, part 1: one LFSR step and its orbit, read as the iteration of a function (20_memory.md
R36, 41_next_command.md R101 to R103). -/

namespace Sys2Proof.Machine

open Function

/-- `Step_m` as a function of the register alone (R36). -/
def stepBy (m c : Word) : Word := lfsrStep c m

theorem orbit_eq_iterate (m c : Word) (k : Nat) : orbit m c k = (stepBy m)^[k] c := by
  induction k with
  | zero => rfl
  | succ k ih => rw [orbit_succ, ih, iterate_succ_apply', stepBy]

/-- R102: the step fixes 0. -/
@[simp] theorem lfsrStep_zero (m : Word) : lfsrStep 0 m = 0 := by simp [lfsrStep, feedbackSelect]

@[simp] theorem orbit_of_zero (m : Word) (k : Nat) : orbit m 0 k = 0 := by
  induction k with
  | zero => rfl
  | succ k ih => rw [orbit_succ, ih, lfsrStep_zero]

/-- R101: with a mask below `2^b` the step stays below `2^b`. -/
theorem lfsrStep_lt_two_pow {b : Nat} {c m : Word} (hc : c.toNat < 2 ^ b) (hm : m.toNat < 2 ^ b) :
    (lfsrStep c m).toNat < 2 ^ b := by
  have shifted : c.toNat >>> 1 < 2 ^ b := (Nat.shiftRight_le c.toNat 1).trans_lt hc
  have masked : m.toNat &&& (feedbackSelect c).toNat < 2 ^ b := Nat.and_le_left.trans_lt hm
  simpa [lfsrStep] using Nat.xor_lt_two_pow shifted masked

theorem orbit_lt_two_pow {b : Nat} {c m : Word} (hc : c.toNat < 2 ^ b) (hm : m.toNat < 2 ^ b) (k : Nat) :
    (orbit m c k).toNat < 2 ^ b := by
  induction k with
  | zero => exact hc
  | succ k ih => exact lfsrStep_lt_two_pow ih hm

/-- A state that recurs does not pass through 0, which the step never leaves. -/
theorem orbit_ne_zero {m c : Word} {n k : Nat} (hc : c ≠ 0) (hn : orbit m c n = c) (hk : k ≤ n) : orbit m c k ≠ 0 := by
  intro h
  have := orbit_add m c k (n - k)
  rw [Nat.add_sub_cancel' hk, hn, h, orbit_of_zero] at this
  exact hc this

/-- TapRange speaks of a positive width: a mask below `2^0` has no top bit. -/
theorem ne_zero_of_tapRange {b : Nat} {m : Word} (h : TapRange b m) : b ≠ 0 := by
  obtain ⟨hm, htop⟩ := h
  rintro rfl
  have : m = 0 := BitVec.eq_of_toNat_eq (by simpa using hm)
  simp [this] at htop

/-- R36: TapOK says that the state 1 has the period `2^b - 1`. -/
theorem minimalPeriod_one_of_tapOK {b : Nat} {m : Word} (h : TapOK b m) : minimalPeriod (stepBy m) 1 = 2 ^ b - 1 := by
  obtain ⟨hrange, hreturn, hleast⟩ := h
  have hpos : 0 < 2 ^ b - 1 := Nat.sub_pos_of_lt (Nat.one_lt_two_pow (ne_zero_of_tapRange hrange))
  have hperiodic : IsPeriodicPt (stepBy m) (2 ^ b - 1) 1 := (orbit_eq_iterate m 1 _).symm.trans hreturn
  refine (hperiodic.minimalPeriod_le hpos).antisymm (Nat.le_of_not_lt fun hlt => ?_)
  exact hleast _ hlt (hperiodic.minimalPeriod_pos hpos) ((orbit_eq_iterate m 1 _).trans iterate_minimalPeriod)

/-- A nonzero b-bit state of period `2^b - 1` runs through all nonzero b-bit states, each once (R103). -/
theorem orbit_perm_of_minimalPeriod {b : Nat} {m c : Word} (hm : m.toNat < 2 ^ b) (hc : c ≠ 0) (hb : c.toNat < 2 ^ b)
    (hperiod : minimalPeriod (stepBy m) c = 2 ^ b - 1) :
    ((List.range (2 ^ b - 1)).map fun k => (orbit m c k).toNat).Perm (List.range' 1 (2 ^ b - 1)) := by
  have hreturn : orbit m c (2 ^ b - 1) = c := by rw [orbit_eq_iterate, ← hperiod, iterate_minimalPeriod]
  have hnodup : ((List.range (2 ^ b - 1)).map fun k => (orbit m c k).toNat).Nodup := by
    refine List.Nodup.map_on (fun i hi j hj hij => ?_) List.nodup_range
    have hiter := BitVec.eq_of_toNat_eq hij
    rw [orbit_eq_iterate, orbit_eq_iterate] at hiter
    rw [List.mem_range, ← hperiod] at hi hj
    exact iterate_injOn_Iio_minimalPeriod hi hj hiter
  have hsub : ((List.range (2 ^ b - 1)).map fun k => (orbit m c k).toNat) ⊆ List.range' 1 (2 ^ b - 1) := by
    intro n hn
    obtain ⟨k, hk, rfl⟩ := List.mem_map.1 hn
    have hlt := orbit_lt_two_pow hb hm k
    have hpos : (orbit m c k).toNat ≠ 0 := BitVec.toNat_ne.1 (orbit_ne_zero hc hreturn (List.mem_range.1 hk).le)
    exact List.mem_range'_1.2 (by omega)
  exact (List.subperm_of_subset hnodup hsub).perm_of_length_le (by simp)

/-- R36: under TapOK the orbit of 1 meets every nonzero b-bit state. -/
theorem exists_orbit_one_eq {b : Nat} {m c : Word} (h : TapOK b m) (hc : c ≠ 0) (hb : c.toNat < 2 ^ b) :
    ∃ k, k < 2 ^ b - 1 ∧ orbit m 1 k = c := by
  have hpos : c.toNat ≠ 0 := fun h0 => hc (BitVec.eq_of_toNat_eq h0)
  have hone : (1 : Word).toNat < 2 ^ b := Nat.one_lt_two_pow (ne_zero_of_tapRange h.1)
  have hperm := orbit_perm_of_minimalPeriod h.1.1 (by decide) hone (minimalPeriod_one_of_tapOK h)
  have hmem : c.toNat ∈ List.range' 1 (2 ^ b - 1) := List.mem_range'_1.2 (by omega)
  obtain ⟨k, hk, hkc⟩ := List.mem_map.1 (hperm.mem_iff.2 hmem)
  exact ⟨k, List.mem_range.1 hk, BitVec.eq_of_toNat_eq hkc⟩

/-- R103: under TapOK every nonzero b-bit state has the period `2^b - 1`. -/
theorem minimalPeriod_of_tapOK {b : Nat} {m c : Word} (h : TapOK b m) (hc : c ≠ 0) (hb : c.toNat < 2 ^ b) :
    minimalPeriod (stepBy m) c = 2 ^ b - 1 := by
  obtain ⟨k, hk, rfl⟩ := exists_orbit_one_eq h hc hb
  have hone := minimalPeriod_one_of_tapOK h
  rw [orbit_eq_iterate, minimalPeriod_apply_iterate, hone]
  exact minimalPeriod_pos_iff_mem_periodicPts.1 (by omega)

/-- R103: under TapOK a nonzero b-bit state recurs after `2^b - 1` steps … -/
theorem orbit_return_of_tapOK {b : Nat} {m c : Word} (h : TapOK b m) (hc : c ≠ 0) (hb : c.toNat < 2 ^ b) :
    orbit m c (2 ^ b - 1) = c := by
  rw [orbit_eq_iterate, ← minimalPeriod_of_tapOK h hc hb, iterate_minimalPeriod]

/-- … and not before. -/
theorem orbit_ne_self_of_tapOK {b : Nat} {m c : Word} (h : TapOK b m) (hc : c ≠ 0) (hb : c.toNat < 2 ^ b) {k : Nat}
    (h1 : 1 ≤ k) (hk : k < 2 ^ b - 1) : orbit m c k ≠ c := by
  rw [orbit_eq_iterate]
  exact not_isPeriodicPt_of_pos_of_lt_minimalPeriod (by omega) (by rwa [minimalPeriod_of_tapOK h hc hb])

/-- R104: under TapOK the `2^b - 1` states from any nonzero b-bit state on are all of these states, each once. -/
theorem orbit_perm_of_tapOK {b : Nat} {m c : Word} (h : TapOK b m) (hc : c ≠ 0) (hb : c.toNat < 2 ^ b) :
    ((List.range (2 ^ b - 1)).map fun k => (orbit m c k).toNat).Perm (List.range' 1 (2 ^ b - 1)) :=
  orbit_perm_of_minimalPeriod h.1.1 hc hb (minimalPeriod_of_tapOK h hc hb)

end Sys2Proof.Machine
end

section
/-! SUPPORT. The family 00_scope.md, part 2: which elements a stretch of the orbit gives, and that NEXT to the end emits them
(41_next_command.md R92 to R94). -/

namespace Sys2Proof.Machine

/-- The elements that the `n` states from `c` on give: the states in range, each less 1 (R94, steps 6 and 7). -/
def elements (m len c : Word) (n : Nat) : List Word :=
  (((List.range n).map (orbit m c)).filter fun d => d.toNat ≤ len.toNat).map (· - 1)

theorem elements_add (m len c : Word) (j k : Nat) :
    elements m len c (j + k) = elements m len c j ++ elements m len (orbit m c j) k := by
  have hshift : orbit m c ∘ (j + ·) = orbit m (orbit m c j) := funext (orbit_add m c j)
  rw [elements, List.range_add, List.map_append, List.map_map, hshift, List.filter_append, List.map_append]
  rfl

/-- A state in range gives its element first (R94, step 7). -/
theorem elements_succ_of_le {m len c : Word} (h : c.toNat ≤ len.toNat) (n : Nat) :
    elements m len c (n + 1) = (c - 1) :: elements m len (orbit m c 1) n := by
  rw [Nat.add_comm, elements_add]
  simp [elements, h]

/-- States out of range give nothing (R94, step 6). -/
theorem elements_eq_nil {m len c : Word} {n : Nat} (h : ∀ j, j < n → len.toNat < (orbit m c j).toNat) :
    elements m len c n = [] := by
  simpa [elements] using h

/-- Where the states before the `k`-th after `c` are out of range, they give nothing … -/
theorem elements_eq_nil_of_passed {m len c : Word} {k : Nat}
    (hpassed : ∀ j, 1 ≤ j → j < k → len.toNat < (orbit m c j).toNat) : elements m len (orbit m c 1) (k - 1) = [] := by
  refine elements_eq_nil fun j hj => ?_
  rw [← orbit_add]
  exact hpassed (1 + j) (by omega) (by omega)

/-- … and when the `k`-th is in range, it gives the first element. -/
theorem elements_eq_cons_of_passed {m len c : Word} {k d : Nat} (h1 : 1 ≤ k) (hd : k ≤ d)
    (hpassed : ∀ j, 1 ≤ j → j < k → len.toNat < (orbit m c j).toNat) (hle : (orbit m c k).toNat ≤ len.toNat) :
    elements m len (orbit m c 1) d = (orbit m c k - 1) :: elements m len (orbit m (orbit m c k) 1) (d - k) := by
  have hsplit : d = (k - 1) + (d - k + 1) := by omega
  have hstate : orbit m (orbit m c 1) (k - 1) = orbit m c k := by rw [← orbit_add, Nat.add_sub_cancel' h1]
  conv_lhs => rw [hsplit]
  rw [elements_add, elements_eq_nil_of_passed hpassed, List.nil_append, hstate, elements_succ_of_le hle]

/-- A NEXT that answers END and leaves phase IDLE has emitted the empty rest. -/
theorem emits_nil {t u : State} (hu : exec .next t = .next u) (hphase : u.phase = .idle)
    (hrsps : u.rsps = t.rsps ++ [rspWord .ended 0]) : Emits t [] :=
  ⟨u, by simp [pulls, hu], hphase, by simpa using hrsps⟩

/-- A NEXT that answers an element emits it before the rest. -/
theorem emits_cons {t t' : State} {v : Word} {es : List Word} (ht : exec .next t = .next t')
    (hrsps : t'.rsps = t.rsps ++ [rspWord .elem v]) (hrest : Emits t' es) : Emits t (v :: es) := by
  obtain ⟨u, hpulls, hphase, hu⟩ := hrest
  exact ⟨u, by simpa [pulls, ht] using hpulls, hphase, by simp [hu, hrsps]⟩

theorem exec_next_of_idle {s : State} (h : s.phase = .idle) : exec .next s = .next (respond .ended 0 s) := by
  simp [exec, execNext, h]

theorem exec_next_of_first {s : State} (h : s.phase = .first) : exec .next s = .next (emitFirst s) := by
  simp [exec, execNext, h]

theorem exec_next_of_second {s : State} (h : s.phase = .second) :
    exec .next s = .next (respond .elem 0 { s with phase := .idle }) := by
  simp [exec, execNext, h]

theorem exec_next_of_run {s : State} (h : s.phase = .run) : exec .next s = emitRun s := by
  simp [exec, execNext, h]

/-- R91: in phase IDLE there is nothing to emit. -/
theorem emits_of_idle {s : State} (h : s.phase = .idle) : Emits s [] :=
  emits_nil (exec_next_of_idle h) h rfl

/-- R93: in phase SECOND the one element 0 is left. -/
theorem emits_of_second {s : State} (h : s.phase = .second) : Emits s [0] :=
  emits_cons (exec_next_of_second h) rfl (emits_of_idle rfl)

/-- R92: length 1. -/
theorem emits_of_first_one {s : State} (h : s.phase = .first) (hlen : s.len.toNat = 1) : Emits s [0] := by
  have hnext := exec_next_of_first h
  rw [emitFirst, if_pos hlen] at hnext
  exact emits_cons hnext rfl (emits_of_idle rfl)

/-- R92, R93: length 2. -/
theorem emits_of_first_two {s : State} (h : s.phase = .first) (hlen : s.len.toNat = 2) : Emits s [1, 0] := by
  have hnext := exec_next_of_first h
  rw [emitFirst, if_neg (by omega), if_pos hlen] at hnext
  exact emits_cons hnext rfl (emits_of_second rfl)

/-- R92: with a length of 3 or more the seed is emitted first, and the rest in phase RUN. -/
theorem emits_of_first {s : State} {es : List Word} (h : s.phase = .first) (hlen : 3 ≤ s.len.toNat)
    (hrest : Emits (respond .elem s.seed { s with phase := .run }) es) : Emits s (s.seed :: es) := by
  have hnext := exec_next_of_first h
  rw [emitFirst, if_neg (by omega), if_neg (by omega)] at hnext
  exact emits_cons hnext rfl hrest

/-- R94, R103: in phase RUN, `d` states before START is met again, NEXT to the end emits the elements of these states. By
induction on `d`: one NEXT uses up the states it passes over and the one it emits. -/
theorem emits_of_run {s : State} (d : Nat) (hphase : s.phase = .run) (hbound : d < loopBound)
    (hstart : orbit (maskOf s) s.cur (d + 1) = startOf s)
    (hbefore : ∀ j, 1 ≤ j → j ≤ d → orbit (maskOf s) s.cur j ≠ startOf s) :
    Emits s (elements (maskOf s) s.len (orbit (maskOf s) s.cur 1) d) := by
  induction d using Nat.strong_induction_on generalizing s with
  | _ d ih =>
    have hnext := exec_next_of_run hphase
    obtain ⟨-, hall⟩ | ⟨k, hk, -, hpassed, hexit⟩ := emitRun_cases s
    · exact absurd hstart (hall (d + 1) (by omega) hbound).1
    have hkd : k ≤ d + 1 := Nat.le_of_not_lt fun hlt => (hpassed (d + 1) (by omega) hlt).1 hstart
    obtain ⟨hk', hrun⟩ | ⟨hk', hle, hrun⟩ := hexit
    · have hlast : k - 1 = d := by
        by_contra hne
        exact hbefore k hk (by omega) hk'
      rw [← hlast, elements_eq_nil_of_passed fun j h1 h2 => (hpassed j h1 h2).2]
      exact emits_nil (hnext.trans hrun) rfl rfl
    · have hkd' : k ≤ d := by
        by_contra hne
        exact hk' ((show k = d + 1 by omega) ▸ hstart)
      rw [elements_eq_cons_of_passed hk hkd' (fun j h1 h2 => (hpassed j h1 h2).2) hle]
      refine emits_cons (hnext.trans hrun) rfl ?_
      refine ih (d - k) (by omega) (s := respond .elem _ { s with cur := orbit (maskOf s) s.cur k }) hphase
        (by omega) ?_ fun j h1 h2 => ?_
      · change orbit (maskOf s) (orbit (maskOf s) s.cur k) _ = startOf s
        rw [← orbit_add, show k + (d - k + 1) = d + 1 by omega, hstart]
      · change orbit (maskOf s) (orbit (maskOf s) s.cur k) j ≠ startOf s
        rw [← orbit_add]
        exact hbefore (k + j) (by omega) (by omega)

/-- R103, R104: from phase FIRST with a length of 3 or more, under TapOK of the word in use, NEXT to the end emits the elements
of START's whole cycle, from START on. -/
theorem emits_of_first_of_tapOK {s : State} {b : Nat} (hphase : s.phase = .first) (hlen : 3 ≤ s.len.toNat)
    (hcur : s.cur = startOf s) (hne : startOf s ≠ 0) (hle : (startOf s).toNat ≤ s.len.toNat)
    (hb : s.len.toNat < 2 ^ b) (htap : TapOK b (maskOf s)) (hb32 : b ≤ 32) :
    Emits s (elements (maskOf s) s.len (startOf s) (2 ^ b - 1)) := by
  have hlt : (startOf s).toNat < 2 ^ b := hle.trans_lt hb
  have hperiod : 2 ^ b - 1 = (2 ^ b - 2) + 1 := by omega
  have hbound : 2 ^ b ≤ loopBound := Nat.pow_le_pow_right (by decide) hb32
  have hseed : startOf s - 1 = s.seed := by rw [startOf, BitVec.add_sub_cancel]
  rw [hperiod, elements_succ_of_le hle, hseed]
  refine emits_of_first hphase hlen ?_
  rw [← hcur]
  refine emits_of_run (s := respond .elem s.seed { s with phase := .run }) _ rfl (by omega) ?_ fun j h1 h2 => ?_
  · change orbit (maskOf s) s.cur _ = startOf s
    rw [← hperiod, hcur, orbit_return_of_tapOK htap hne hlt]
  · change orbit (maskOf s) s.cur j ≠ startOf s
    rw [hcur]
    exact orbit_ne_self_of_tapOK htap hne hlt h1 (by omega)

/-- Away from 0 the elements are, as numbers, the states in range less 1 (R99). -/
theorem elements_map_toNat {m len c : Word} {n : Nat} (h : ∀ k, k < n → orbit m c k ≠ 0) :
    (elements m len c n).map BitVec.toNat =
      (((List.range n).map fun k => (orbit m c k).toNat).filter fun d => d ≤ len.toNat).map (· - 1) := by
  simp only [elements, List.filter_map, List.map_map]
  refine List.map_congr_left fun k hk => ?_
  have hpos : (orbit m c k).toNat ≠ 0 :=
    BitVec.toNat_ne.1 (h k (List.mem_range.1 (List.mem_filter.1 hk).1))
  exact BitVec.toNat_sub_of_le (BitVec.le_def.2 (Nat.one_le_iff_ne_zero.2 hpos))

/-- Of 1 to `n`, those up to `l`, each less 1, are 0 to `l - 1`. -/
theorem range'_filter_le_map_pred {l n : Nat} (h : l ≤ n) :
    ((List.range' 1 n).filter fun d => d ≤ l).map (· - 1) = List.range l := by
  obtain ⟨r, rfl⟩ := Nat.exists_eq_add_of_le h
  have low : (List.range' 1 l).filter (fun d => d ≤ l) = List.range' 1 l :=
    List.filter_eq_self.2 fun d hd => by have := List.mem_range'_1.1 hd; simp; omega
  have high : (List.range' (1 + l) r).filter (fun d => d ≤ l) = [] :=
    List.filter_eq_nil_iff.2 fun d hd => by have := List.mem_range'_1.1 hd; simp; omega
  rw [← List.range'_append_1, List.filter_append, low, high, List.append_nil, List.map_sub_range' (Nat.le_refl 1),
    Nat.sub_self, List.range_eq_range']

/-- R104: the elements of a whole cycle under TapOK are 0 to `len - 1`, each once. -/
theorem elements_perm_range {b : Nat} {m len c : Word} (h : TapOK b m) (hc : c ≠ 0) (hb : c.toNat < 2 ^ b)
    (hlen : len.toNat < 2 ^ b) :
    ((elements m len c (2 ^ b - 1)).map BitVec.toNat).Perm (List.range len.toNat) := by
  have hnonzero : ∀ k, k < 2 ^ b - 1 → orbit m c k ≠ 0 := fun k hk =>
    orbit_ne_zero hc (orbit_return_of_tapOK h hc hb) hk.le
  rw [elements_map_toNat hnonzero, ← range'_filter_le_map_pred (Nat.le_sub_one_of_lt hlen)]
  exact ((orbit_perm_of_tapOK h hc hb).filter _).map _

end Sys2Proof.Machine
end

section
/-! SUPPORT. The family 00_scope.md, part 3: valid pairs as words, an accepted GENS, and the bit width of a length
(40_start_commands.md R67, R70, R74). -/

namespace Sys2Proof.Machine

/-- R49, R67: a valid pair read unsigned: both 0, or a seed below a length that has bit 31 clear. -/
theorem validPair_toNat {length seed : Word} (h : ValidPair length.toInt seed.toInt) :
    (length.toNat = 0 ∧ seed.toNat = 0) ∨ (length.toNat < 2 ^ 31 ∧ seed.toNat < length.toNat) := by
  rw [BitVec.toInt_eq_toNat_cond, BitVec.toInt_eq_toNat_cond] at h
  have := length.isLt
  have := seed.isLt
  split at h <;> split at h <;> omega

/-- R67: validation passes a valid pair. -/
theorem validate_of_validPair {len seed : Int} (h : ValidPair len seed) (lenWord seedWord : Word) :
    validate len seed lenWord seedWord = none := by
  obtain ⟨hlen, -⟩ | ⟨-, hseed, -⟩ | ⟨-, -, hle, hne, -⟩ | ⟨-, -, -, hnone⟩ := validate_cases len seed lenWord seedWord
  · omega
  · omega
  · omega
  · exact hnone

/-- R74: GENS with a valid pair loads it. -/
theorem exec_gens_of_validPair {length seed : Word} (h : ValidPair length.toInt seed.toInt) (s : State) :
    exec (.gens length seed) s = .next (load length seed s) := by
  simp [exec, execGens, startWith, validate_of_validPair h]

theorem load_phase_of_pos {length : Word} (h : length.toNat ≠ 0) (seed : Word) (s : State) :
    (load length seed s).phase = .first :=
  if_neg fun h0 => h (by simp [h0])

/-- R70: every length is below `2^B`. -/
theorem toNat_lt_two_pow_bitWidth (len : Word) : len.toNat < 2 ^ bitWidth len := by
  have hbitlen : len.toNat < 2 ^ bitlen len.toNat := by
    unfold bitlen
    split
    · omega
    · rw [Nat.add_comm]
      exact Nat.lt_log2_self
  exact hbitlen.trans_le (Nat.pow_le_pow_right (by decide) (Nat.le_max_right _ _))

/-- R72, R17: one more than a word below another does not wrap. -/
theorem toNat_add_one_of_lt {v w : Word} (h : v.toNat < w.toNat) : (v + 1).toNat = v.toNat + 1 := by
  have := w.isLt
  bv_omega

theorem add_one_ne_zero_of_lt {v w : Word} (h : v.toNat < w.toNat) : v + 1 ≠ 0 :=
  BitVec.toNat_ne.2 (by rw [toNat_add_one_of_lt h]; exact Nat.succ_ne_zero _)

/-- R104: after GENS with a length of 3 or more and a seed below it, under TapOK of the word in use, NEXT to the end emits the
elements of the whole cycle from `seed + 1` on. -/
theorem emits_load_of_tapOK {length seed : Word} (s : State) (hlen : 3 ≤ length.toNat) (hseed : seed.toNat < length.toNat)
    (htap : TapOK (bitWidth length) (romRead s (romIndex length))) :
    Emits (load length seed s)
      (elements (romRead s (romIndex length)) length (seed + 1) (2 ^ bitWidth length - 1)) := by
  have hstart : (seed + 1).toNat ≤ length.toNat := by rw [toNat_add_one_of_lt hseed]; exact hseed
  exact emits_of_first_of_tapOK (load_phase_of_pos (by omega) seed s) hlen rfl (add_one_ne_zero_of_lt hseed) hstart
    (toNat_lt_two_pow_bitWidth length) htap (bitWidth_le length)

end Sys2Proof.Machine
end

section
/-! The theorems that settle the statements of the family 00_scope.md. -/

namespace Sys2Proof.Machine

/-- Settles O7: the input taken is the command word, and its decoding picks the arm of `step`. -/
theorem stepRunsTheDecodedInstruction : Obligations.StepRunsTheDecodedInstruction := by
  intro s w rest i hinputs hdecode
  have htake := takeInput_eq_some.2 ⟨rest, hinputs, rfl⟩
  simp [step, htake, hdecode]

/-- Settles O43: the lengths 0, 1 and 2 have fixed sequences; for a length of 3 or more the elements are those of a whole cycle
of the register, which under TapOK holds every state once. -/
theorem sequenceIsPermutation : Obligations.SequenceIsPermutation := by
  intro length seed s hvalid htap
  refine ⟨load length seed s, ?_⟩
  suffices ∃ es, Emits (load length seed s) es ∧ (es.map BitVec.toNat).Perm (List.range length.toNat) by
    simpa [exec_gens_of_validPair hvalid] using this
  obtain ⟨hzero, -⟩ | ⟨-, hseed⟩ := validPair_toNat hvalid
  · have hphase : (load length seed s).phase = .idle := if_pos (BitVec.eq_of_toNat_eq hzero)
    exact ⟨[], emits_of_idle hphase, by simp [hzero]⟩
  have hphase := load_phase_of_pos (by omega : length.toNat ≠ 0) seed s
  obtain hone | htwo | hthree : length.toNat = 1 ∨ length.toNat = 2 ∨ 3 ≤ length.toNat := by omega
  · exact ⟨[0], emits_of_first_one hphase hone, by simp [hone]⟩
  · refine ⟨[1, 0], emits_of_first_two hphase htwo, ?_⟩
    rw [htwo]
    decide
  · have hlength := toNat_lt_two_pow_bitWidth length
    have hstart : (seed + 1).toNat < 2 ^ bitWidth length := by rw [toNat_add_one_of_lt hseed]; omega
    exact ⟨_, emits_load_of_tapOK s hthree hseed (htap hthree),
      elements_perm_range (htap hthree) (add_one_ne_zero_of_lt hseed) hstart hlength⟩

end Sys2Proof.Machine
end

section
/-! SUPPORT. The family 10_state.md, part 1: what a start command and a NEXT can do, each said once, and what they
leave unchanged (40_start_commands.md R65 to R75, 41_next_command.md R91 to R94). -/

namespace Sys2Proof.Machine

/-- R67: validation passes exactly the valid pairs. -/
theorem validate_eq_none_iff {len seed : Int} {lenWord seedWord : Word} :
    validate len seed lenWord seedWord = none ↔ ValidPair len seed := by
  refine ⟨fun hnone => ?_, fun hvalid => validate_of_validPair hvalid lenWord seedWord⟩
  obtain ⟨-, h⟩ | ⟨-, -, h⟩ | ⟨-, -, -, -, h⟩ | ⟨hlen, hseed, hpair, -⟩ := validate_cases len seed lenWord seedWord
  · simp [h] at hnone
  · simp [h] at hnone
  · simp [h] at hnone
  · omega

/-- A start command loads a valid pair, and raises InvalidArgument for every other one (R65, R67). -/
theorem startWith_load_or_raise (length seed : Word) (s : State) :
    (ValidPair length.toInt seed.toInt ∧ startWith length seed s = load length seed s) ∨
    (¬ ValidPair length.toInt seed.toInt ∧
      ∃ reason value, startWith length seed s = raiseInvalidArgument reason value s) := by
  obtain ⟨reason, value, hsome, h⟩ | ⟨hnone, h⟩ := startWith_cases length seed s
  · exact .inr ⟨fun hvalid => by simp [validate_of_validPair hvalid] at hsome, reason, value, h⟩
  · exact .inl ⟨validate_eq_none_iff.1 hnone, h⟩

section
variable (length seed : Word) (s : State)

@[simp] theorem startWith_taps : (startWith length seed s).taps = s.taps := by
  obtain ⟨-, h⟩ | ⟨-, _, _, h⟩ := startWith_load_or_raise length seed s <;> rw [h] <;> rfl

@[simp] theorem startWith_inputs : (startWith length seed s).inputs = s.inputs := by
  obtain ⟨-, h⟩ | ⟨-, _, _, h⟩ := startWith_load_or_raise length seed s <;> rw [h] <;> rfl

@[simp] theorem startWith_answers : (startWith length seed s).answers = s.answers := by
  obtain ⟨-, h⟩ | ⟨-, _, _, h⟩ := startWith_load_or_raise length seed s <;> rw [h] <;> rfl

@[simp] theorem startWith_requests : (startWith length seed s).requests = s.requests := by
  obtain ⟨-, h⟩ | ⟨-, _, _, h⟩ := startWith_load_or_raise length seed s <;> rw [h] <;> rfl

/-- R11: a start command goes to FIRST for a valid pair of a positive length, and to IDLE otherwise. -/
theorem startWith_phase : (startWith length seed s).phase =
    if 1 ≤ length.toInt ∧ ValidPair length.toInt seed.toInt then .first else .idle := by
  obtain ⟨hvalid, h⟩ | ⟨hinvalid, _, _, h⟩ := startWith_load_or_raise length seed s
  · have hzero : length = 0#32 ↔ ¬ 1 ≤ length.toInt := by
      rw [← BitVec.toInt_inj, BitVec.toInt_zero]
      omega
    by_cases hpos : 1 ≤ length.toInt <;> simp [h, hzero, hpos, hvalid]
  · simp [h, hinvalid]

end

theorem exec_gen (length : Word) (s : State) : exec (.gen length) s = .next (startWith length 0 s) := rfl

theorem exec_gens (length arg : Word) (s : State) : exec (.gens length arg) s = .next (startWith length arg s) := rfl

/-- The state in which GENR validates: after the draw, which a negative length skips (R75). -/
def genrDrawn (length : Word) (src : Source) (s : State) : State :=
  if length.toInt < 0 then s else afterDraw src length s

section
variable (length : Word) (src : Source) (s : State)

@[simp] theorem genrDrawn_len : (genrDrawn length src s).len = s.len := by
  unfold genrDrawn
  split <;> rfl

@[simp] theorem genrDrawn_seed : (genrDrawn length src s).seed = s.seed := by
  unfold genrDrawn
  split <;> rfl

@[simp] theorem genrDrawn_cur : (genrDrawn length src s).cur = s.cur := by
  unfold genrDrawn
  split <;> rfl

@[simp] theorem genrDrawn_taps : (genrDrawn length src s).taps = s.taps := by
  unfold genrDrawn
  split <;> rfl

@[simp] theorem genrDrawn_inputs : (genrDrawn length src s).inputs = s.inputs := by
  unfold genrDrawn
  split <;> rfl

@[simp] theorem genrDrawn_rsps : (genrDrawn length src s).rsps = s.rsps := by
  unfold genrDrawn
  split <;> rfl

end

/-- GENR, too, ends in the shared start: a negative length fails V1 whatever the seed (R66, R75). -/
theorem exec_genr (length : Word) (src : Source) (s : State) :
    exec (.genr length src) s = .next (startWith length (drawAnswer src length s) (genrDrawn length src s)) := by
  by_cases hneg : length.toInt < 0
  · simp [exec, execGenr, genrDrawn, startWith, validate, hneg]
  · simp [exec, execGenr, genrDrawn, hneg]

/-- Every start command is the shared start of R65, from a state that differs from `s` in the draw of GENR only. -/
theorem exec_of_ne_next {i : Instr} (h : i ≠ .next) (s : State) : ∃ length seed s₀,
    exec i s = .next (startWith length seed s₀) ∧
      (s₀ = s ∨ ∃ length' src, i = .genr length' src ∧ s₀ = genrDrawn length' src s) := by
  cases i with
  | gen length => exact ⟨length, 0, s, rfl, .inl rfl⟩
  | genr length src => exact ⟨length, _, _, exec_genr length src s, .inr ⟨length, src, rfl, rfl⟩⟩
  | gens length arg => exact ⟨length, arg, s, rfl, .inl rfl⟩
  | next => exact absurd rfl h

/-- What NEXT can answer, phase by phase (R91 to R94). -/
inductive NextAnswers (s : State) : State → Prop
  | idle (hphase : s.phase = .idle) : NextAnswers s (respond .ended 0 s)
  | firstOfOne (hphase : s.phase = .first) (hlen : s.len.toNat = 1) :
      NextAnswers s (respond .elem 0 { s with phase := .idle })
  | firstOfTwo (hphase : s.phase = .first) (hlen : s.len.toNat = 2) :
      NextAnswers s (respond .elem 1 { s with phase := .second })
  | firstOfMany (hphase : s.phase = .first) (hone : s.len.toNat ≠ 1) (htwo : s.len.toNat ≠ 2) :
      NextAnswers s (respond .elem s.seed { s with phase := .run })
  | second (hphase : s.phase = .second) : NextAnswers s (respond .elem 0 { s with phase := .idle })
  | runEnded (k : Nat) (hphase : s.phase = .run) (hk : 1 ≤ k)
      (hpassed : ∀ j, 1 ≤ j → j < k → Discarded (maskOf s) (startOf s) s.len s.cur j)
      (hstart : orbit (maskOf s) s.cur k = startOf s) :
      NextAnswers s (respond .ended 0 { s with cur := startOf s, phase := .idle })
  | runElem (k : Nat) (hphase : s.phase = .run) (hk : 1 ≤ k)
      (hpassed : ∀ j, 1 ≤ j → j < k → Discarded (maskOf s) (startOf s) s.len s.cur j)
      (hne : orbit (maskOf s) s.cur k ≠ startOf s) (hle : (orbit (maskOf s) s.cur k).toNat ≤ s.len.toNat) :
      NextAnswers s (respond .elem (orbit (maskOf s) s.cur k - 1) { s with cur := orbit (maskOf s) s.cur k })

theorem nextAnswers_emitFirst {s : State} (hphase : s.phase = .first) : NextAnswers s (emitFirst s) := by
  unfold emitFirst
  split
  · next hone => exact .firstOfOne hphase hone
  · next hone =>
    split
    · next htwo => exact .firstOfTwo hphase htwo
    · next htwo => exact .firstOfMany hphase hone htwo

theorem nextAnswers_of_emitRun {s t : State} (hphase : s.phase = .run) (h : emitRun s = .next t) : NextAnswers s t := by
  obtain ⟨hfault, -⟩ | ⟨k, hk, -, hpassed, ⟨hstart, hnext⟩ | ⟨hne, hle, hnext⟩⟩ := emitRun_cases s
  · cases hfault.symm.trans h
  · cases hnext.symm.trans h
    exact .runEnded k hphase hk hpassed hstart
  · cases hnext.symm.trans h
    exact .runElem k hphase hk hpassed hne hle

/-- Whatever NEXT answers is in the list of `NextAnswers`. -/
theorem nextAnswers_of_exec {s t : State} (h : exec .next s = .next t) : NextAnswers s t := by
  cases hphase : s.phase with
  | idle =>
    cases (exec_next_of_idle hphase).symm.trans h
    exact .idle hphase
  | first =>
    cases (exec_next_of_first hphase).symm.trans h
    exact nextAnswers_emitFirst hphase
  | second =>
    cases (exec_next_of_second hphase).symm.trans h
    exact .second hphase
  | run => exact nextAnswers_of_emitRun hphase ((exec_next_of_run hphase).symm.trans h)

section
variable {s t : State}

theorem NextAnswers.len_eq (h : NextAnswers s t) : t.len = s.len := by cases h <;> rfl
theorem NextAnswers.seed_eq (h : NextAnswers s t) : t.seed = s.seed := by cases h <;> rfl
theorem NextAnswers.taps_eq (h : NextAnswers s t) : t.taps = s.taps := by cases h <;> rfl
theorem NextAnswers.requests_eq (h : NextAnswers s t) : t.requests = s.requests := by cases h <;> rfl
theorem NextAnswers.answers_eq (h : NextAnswers s t) : t.answers = s.answers := by cases h <;> rfl
theorem NextAnswers.inputs_eq (h : NextAnswers s t) : t.inputs = s.inputs := by cases h <;> rfl
theorem NextAnswers.rsps_eq (h : NextAnswers s t) : ∃ w, t.rsps = s.rsps ++ [w] := by cases h <;> exact ⟨_, rfl⟩

/-- R14: outside phase RUN no NEXT writes CUR. -/
theorem NextAnswers.cur_eq (h : NextAnswers s t) (hphase : s.phase ≠ .run) : t.cur = s.cur := by
  cases h with
  | runEnded _ hrun => exact absurd hrun hphase
  | runElem _ hrun => exact absurd hrun hphase
  | _ => rfl

end

/-- Equal ROMs read alike. -/
theorem romRead_congr {s t : State} (h : t.taps = s.taps) (i : Fin 31) : romRead t i = romRead s i := by
  simp only [romRead, h]

/-- R32: no command writes the ROM. -/
theorem exec_taps {i : Instr} {s t : State} (h : exec i s = .next t) : t.taps = s.taps := by
  by_cases hi : i = .next
  · subst hi
    exact (nextAnswers_of_exec h).taps_eq
  · obtain ⟨length, seed, s₀, hstart, hs₀⟩ := exec_of_ne_next hi s
    cases hstart.symm.trans h
    obtain rfl | ⟨_, _, -, rfl⟩ := hs₀ <;> simp

end Sys2Proof.Machine
end

section
/-! SUPPORT. The family 10_state.md, part 2: the element last emitted, the step away from 0, and that each command keeps the
invariant (10_state.md R22, 41_next_command.md R101). -/

namespace Sys2Proof.Machine

@[simp] theorem rspStatus_rspWord (status : Status) (value : Word) :
    rspStatus (rspWord status value) = statusCode status := by
  unfold rspStatus rspWord
  exact BitVec.extractLsb'_append_eq_left

@[simp] theorem rspValue_rspWord (status : Status) (value : Word) : rspValue (rspWord status value) = value := by
  unfold rspValue rspWord
  exact BitVec.extractLsb'_append_eq_right

@[simp] theorem lastElem_append_elem (rsps : List RspWord) (v : Word) :
    lastElem (rsps ++ [rspWord .elem v]) = some v := by
  simp [lastElem, isElem]

@[simp] theorem lastElem_append_illegal (rsps : List RspWord) (v : Word) :
    lastElem (rsps ++ [rspWord .illegal v]) = lastElem rsps := by
  simp [lastElem, isElem, statusCode]

/-- R96: the feedback select is all ones or all zeros. -/
theorem feedbackSelect_eq (c : Word) : feedbackSelect c = if c.getLsbD 0 then BitVec.allOnes 32 else 0 := by
  have hbit : c &&& 1 = (BitVec.ofBool (c.getLsbD 0)).setWidth 32 := BitVec.and_one_eq_setWidth_ofBool_getLsbD
  rw [feedbackSelect, hbit]
  cases c.getLsbD 0 <;> rfl

/-- R95, bit by bit. -/
theorem getLsbD_lfsrStep (c m : Word) (i : Nat) :
    (lfsrStep c m).getLsbD i = (c.getLsbD (i + 1) ^^ (m.getLsbD i && c.getLsbD 0)) := by
  have hmask : (m &&& feedbackSelect c).getLsbD i = (m.getLsbD i && c.getLsbD 0) := by
    rw [feedbackSelect_eq]
    cases c.getLsbD 0 <;> simp [-BitVec.reduceAllOnes]
  rw [lfsrStep, BitVec.getLsbD_xor, hmask, BitVec.getLsbD_ushiftRight, Nat.add_comm]

/-- R101: under TapRange a step from a nonzero b-bit state does not reach 0: its top bit is fed back, so a step to 0 has no
feedback and shifts out no bit either. -/
theorem lfsrStep_ne_zero {b : Nat} {c m : Word} (htap : TapRange b m) (hc : c ≠ 0) (hb : c.toNat < 2 ^ b) :
    lfsrStep c m ≠ 0 := by
  intro hzero
  have hbit : ∀ i, (c.getLsbD (i + 1) ^^ (m.getLsbD i && c.getLsbD 0)) = false := fun i => by
    rw [← getLsbD_lfsrStep, hzero]
    exact BitVec.getLsbD_zero
  have habove : c.getLsbD b = false := Nat.testBit_lt_two_pow hb
  have hlow : c.getLsbD 0 = false := by
    have := hbit (b - 1)
    rwa [Nat.sub_add_cancel (Nat.one_le_iff_ne_zero.2 (ne_zero_of_tapRange htap)), habove, htap.2, Bool.false_xor,
      Bool.true_and] at this
  refine hc (BitVec.eq_of_getLsbD_eq fun i _ => ?_)
  cases i with
  | zero => simpa using hlow
  | succ i =>
    have := hbit i
    rw [hlow, Bool.and_false, Bool.xor_false] at this
    exact this.trans BitVec.getLsbD_zero.symm

/-- R101, along the orbit. -/
theorem orbit_ne_zero_of_tapRange {b : Nat} {c m : Word} (htap : TapRange b m) (hc : c ≠ 0) (hb : c.toNat < 2 ^ b)
    (k : Nat) : orbit m c k ≠ 0 := by
  induction k with
  | zero => exact hc
  | succ k ih => exact lfsrStep_ne_zero htap ih (orbit_lt_two_pow hb htap.1 k)

theorem stateInv_of_idle {s : State} (hphase : s.phase = .idle) : StateInv s := by simp [StateInv, hphase]

/-- The invariant in phase FIRST (R22). -/
theorem stateInv_first {s : State} (hphase : s.phase = .first) : StateInv s ↔
    1 ≤ s.len.toNat ∧ s.len.toNat < 2 ^ 31 ∧ s.seed.toNat < s.len.toNat ∧ s.cur = startOf s := by
  simp only [StateInv, hphase, startOf]

/-- The invariant in phase SECOND (R22). -/
theorem stateInv_second {s : State} (hphase : s.phase = .second) :
    StateInv s ↔ s.len.toNat = 2 ∧ s.seed.toNat < 2 := by
  simp only [StateInv, hphase]

/-- CUR is reached from START without passing START again (R22). -/
def ReachedFromStart (s : State) : Prop :=
  ∃ k, orbit (maskOf s) (startOf s) k = s.cur ∧ ∀ j, 1 ≤ j → j ≤ k → orbit (maskOf s) (startOf s) j ≠ startOf s

/-- The invariant in phase RUN (R22). -/
theorem stateInv_run {s : State} (hphase : s.phase = .run) : StateInv s ↔
    3 ≤ s.len.toNat ∧ s.len.toNat < 2 ^ 31 ∧ s.seed.toNat < s.len.toNat ∧ s.cur.toNat ≤ s.len.toNat ∧
      (TapRange (bitWidth s.len) (maskOf s) → s.cur ≠ 0) ∧ lastElem s.rsps = some (s.cur - 1) ∧
      ReachedFromStart s := by
  have hpos : 1 ≤ s.cur.toNat ↔ s.cur ≠ 0 := Nat.one_le_iff_ne_zero.trans (BitVec.toNat_ne (y := 0)).symm
  simp only [StateInv, hphase, ReachedFromStart, hpos]

/-- R17: in every live phase SEED is below LEN. -/
theorem seed_lt_len_of_stateInv {s : State} (hinv : StateInv s) (hlive : s.phase ≠ .idle) :
    s.seed.toNat < s.len.toNat := by
  cases hphase : s.phase with
  | idle => exact absurd hphase hlive
  | first =>
    obtain ⟨-, -, hseed, -⟩ := (stateInv_first hphase).1 hinv
    exact hseed
  | second =>
    obtain ⟨hlen, hseed⟩ := (stateInv_second hphase).1 hinv
    omega
  | run =>
    obtain ⟨-, -, hseed, -⟩ := (stateInv_run hphase).1 hinv
    exact hseed

/-- An answer ILLEGAL writes no register and is no element (R121). -/
theorem stateInv_raiseIllegal {s : State} (hinv : StateInv s) : StateInv (raiseIllegal s) := by
  cases hphase : s.phase with
  | idle => exact stateInv_of_idle hphase
  | first => exact (stateInv_first (s := raiseIllegal s) hphase).2 ((stateInv_first hphase).1 hinv)
  | second => exact (stateInv_second (s := raiseIllegal s) hphase).2 ((stateInv_second hphase).1 hinv)
  | run =>
    refine (stateInv_run (s := raiseIllegal s) hphase).2 ?_
    rw [raiseIllegal_rsps, lastElem_append_illegal]
    exact (stateInv_run hphase).1 hinv

/-- A start command leaves the invariant from every state (R72, R118). -/
theorem stateInv_startWith (length seed : Word) (s : State) : StateInv (startWith length seed s) := by
  obtain ⟨hvalid, h⟩ | ⟨-, _, _, h⟩ := startWith_load_or_raise length seed s
  · rw [h]
    obtain ⟨hzero, -⟩ | ⟨hlen, hseed⟩ := validPair_toNat hvalid
    · exact stateInv_of_idle (if_pos (BitVec.eq_of_toNat_eq hzero))
    · have hpos : 1 ≤ length.toNat := by omega
      exact (stateInv_first (load_phase_of_pos (by omega) seed s)).2 ⟨hpos, hlen, hseed, rfl⟩
  · rw [h]
    exact stateInv_of_idle rfl

/-- The element emitted in phase RUN lies `k` states on; START lies on none of them (R94). -/
theorem reachedFromStart_runElem {s : State} {k : Nat} (hreached : ReachedFromStart s)
    (hpassed : ∀ j, 1 ≤ j → j < k → Discarded (maskOf s) (startOf s) s.len s.cur j)
    (hne : orbit (maskOf s) s.cur k ≠ startOf s) :
    ReachedFromStart (respond .elem (orbit (maskOf s) s.cur k - 1) { s with cur := orbit (maskOf s) s.cur k }) := by
  obtain ⟨n, hn, hbefore⟩ := hreached
  have hshift : ∀ j, orbit (maskOf s) (startOf s) (n + j) = orbit (maskOf s) s.cur j := fun j => by rw [orbit_add, hn]
  refine ⟨n + k, hshift k, fun j hj hle => ?_⟩
  change orbit (maskOf s) (startOf s) j ≠ startOf s
  by_cases hjn : j ≤ n
  · exact hbefore j hj hjn
  obtain ⟨d, rfl⟩ := Nat.exists_eq_add_of_le (Nat.le_of_not_le hjn)
  rw [hshift]
  obtain hlt | rfl : d < k ∨ d = k := by omega
  · exact (hpassed d (by omega) hlt).1
  · exact hne

/-- NEXT keeps the invariant. -/
theorem stateInv_nextAnswers {s t : State} (hinv : StateInv s) (h : NextAnswers s t) : StateInv t := by
  cases h with
  | idle hphase => exact stateInv_of_idle hphase
  | firstOfOne => exact stateInv_of_idle rfl
  | firstOfTwo hphase htwo =>
    obtain ⟨-, -, hseed, -⟩ := (stateInv_first hphase).1 hinv
    exact (stateInv_second rfl).2 ⟨htwo, htwo ▸ hseed⟩
  | firstOfMany hphase hone htwo =>
    obtain ⟨hpos, hlen, hseed, hcur⟩ := (stateInv_first hphase).1 hinv
    have hle : s.cur.toNat ≤ s.len.toNat := by rw [hcur, startOf, toNat_add_one_of_lt hseed]; exact hseed
    have hnonzero : s.cur ≠ 0 := by rw [hcur]; exact add_one_ne_zero_of_lt hseed
    have hthree : 3 ≤ s.len.toNat := by omega
    have hlast : lastElem (s.rsps ++ [rspWord .elem s.seed]) = some (s.cur - 1) := by
      rw [lastElem_append_elem, hcur, startOf, BitVec.add_sub_cancel]
    exact (stateInv_run rfl).2 ⟨hthree, hlen, hseed, hle, fun _ => hnonzero, hlast, 0, hcur.symm, fun j h1 h2 => by omega⟩
  | second => exact stateInv_of_idle rfl
  | runEnded => exact stateInv_of_idle rfl
  | runElem k hphase hk hpassed hne hle =>
    obtain ⟨hpos, hlen, hseed, hcur, hnonzero, -, hreached⟩ := (stateInv_run hphase).1 hinv
    have hwidth : s.cur.toNat < 2 ^ bitWidth s.len := hcur.trans_lt (toNat_lt_two_pow_bitWidth s.len)
    exact (stateInv_run (s := respond .elem _ { s with cur := orbit (maskOf s) s.cur k }) hphase).2
      ⟨hpos, hlen, hseed, hle, fun htap => orbit_ne_zero_of_tapRange htap (hnonzero htap) hwidth k,
        lastElem_append_elem _ _, reachedFromStart_runElem hreached hpassed hne⟩

/-- Every command keeps the invariant. -/
theorem stateInv_exec {i : Instr} {s t : State} (hinv : StateInv s) (h : exec i s = .next t) : StateInv t := by
  by_cases hi : i = .next
  · subst hi
    exact stateInv_nextAnswers hinv (nextAnswers_of_exec h)
  · obtain ⟨length, seed, s₀, hstart, -⟩ := exec_of_ne_next hi s
    cases hstart.symm.trans h
    exact stateInv_startWith length seed s₀

end Sys2Proof.Machine
end

section
/-! SUPPORT. The family 10_state.md, part 3: the ROM word in use decides what NEXT does, and the width of a length
(10_state.md R16, 20_memory.md R34, 40_start_commands.md R70). -/

namespace Sys2Proof.Machine

/-- R70: a width of 2 or more that holds the length is no less than the bit width. -/
theorem bitWidth_le_of_lt_two_pow {len : Word} {b : Nat} (hb : 2 ≤ b) (hlen : len.toNat < 2 ^ b) : bitWidth len ≤ b := by
  refine Nat.max_le.2 ⟨hb, ?_⟩
  unfold bitlen
  split
  · omega
  · next hpos =>
    have := (Nat.log2_lt hpos).2 hlen
    omega

/-- An outcome with its next state changed by `f`. -/
def mapNext (f : State → State) : Host.Outcome State Fault Refusal → Host.Outcome State Fault Refusal
  | .next s => .next (f s)
  | .fault r => .fault r
  | .refused r => .refused r

/-- The state with other contents of the ROM. -/
def State.withTaps (taps : Vector Word 31) (s : State) : State := { s with taps := taps }

section
variable (taps : Vector Word 31) (s : State)

@[simp] theorem withTaps_phase : (s.withTaps taps).phase = s.phase := rfl
@[simp] theorem withTaps_len : (s.withTaps taps).len = s.len := rfl
@[simp] theorem withTaps_cur : (s.withTaps taps).cur = s.cur := rfl
@[simp] theorem startOf_withTaps : startOf (s.withTaps taps) = startOf s := rfl

end

/-- R92: the first element does not depend on the ROM. -/
theorem emitFirst_withTaps (taps : Vector Word 31) (s : State) :
    emitFirst (s.withTaps taps) = (emitFirst s).withTaps taps := by
  unfold emitFirst
  rw [withTaps_len]
  split
  · rfl
  · split <;> rfl

/-- R16, R94: the loop of NEXT sees the ROM through MASK only. -/
theorem emitRun_withTaps {taps : Vector Word 31} {s : State} (hmask : maskOf (s.withTaps taps) = maskOf s) :
    emitRun (s.withTaps taps) = mapNext (State.withTaps taps) (emitRun s) := by
  unfold emitRun
  rw [hmask, startOf_withTaps, withTaps_len, withTaps_cur]
  cases discardLoop (maskOf s) (startOf s) s.len loopBound s.cur with
  | none => rfl
  | some exit => cases exit <;> rfl

/-- R16, R34: with the same word in use, NEXT does the same under another ROM, which stays as it is. -/
theorem exec_next_withTaps {taps : Vector Word 31} {s : State} (hmask : maskOf (s.withTaps taps) = maskOf s) :
    exec .next (s.withTaps taps) = mapNext (State.withTaps taps) (exec .next s) := by
  cases hphase : s.phase with
  | idle => rw [exec_next_of_idle hphase, exec_next_of_idle (s := s.withTaps taps) hphase]; rfl
  | first =>
    rw [exec_next_of_first hphase, exec_next_of_first (s := s.withTaps taps) hphase, emitFirst_withTaps]
    rfl
  | second => rw [exec_next_of_second hphase, exec_next_of_second (s := s.withTaps taps) hphase]; rfl
  | run => rw [exec_next_of_run hphase, exec_next_of_run (s := s.withTaps taps) hphase, emitRun_withTaps hmask]

/-- R31: a ROM word that is not at the index in use does not show in MASK. -/
theorem maskOf_set_of_ne {s : State} {i : Nat} (hi : i < 31) (m : Word) (hne : (romIndex s.len).val ≠ i) :
    maskOf (s.withTaps (s.taps.set i m)) = maskOf s :=
  Vector.getElem_set_ne hi (romIndex s.len).isLt (Ne.symm hne)

end Sys2Proof.Machine
end

section
/-! SUPPORT. The family 10_state.md, part 4: two states that differ in LEN, SEED and CUR alone, from phase IDLE on
(10_state.md R21, R23, 70_reset_and_hazards.md R150). -/

namespace Sys2Proof.Machine

/-- The state with other values in LEN, SEED and CUR. -/
def State.withRegs (len seed cur : Word) (s : State) : State := { s with len := len, seed := seed, cur := cur }

/-- The two states are equal, or they differ in LEN, SEED and CUR alone while PHASE is IDLE. -/
def EqualOrIdleTwins (s s' : State) : Prop :=
  s' = s ∨ s.phase = .idle ∧ ∃ len seed cur, s' = s.withRegs len seed cur

/-- The two outcomes are next states, equal or idle twins. -/
def BothNext (o o' : Host.Outcome State Fault Refusal) : Prop :=
  ∃ t t', o = .next t ∧ o' = .next t' ∧ EqualOrIdleTwins t t'

section
variable (len seed cur : Word) (s : State)

/-- R72, R118: what a start command loads does not depend on the registers, and after an error they are hidden. -/
theorem startWith_withRegs (length arg : Word) :
    EqualOrIdleTwins (startWith length arg s) (startWith length arg (s.withRegs len seed cur)) := by
  unfold startWith
  split
  · exact .inr ⟨rfl, len, seed, cur, rfl⟩
  · exact .inl rfl

/-- R75: the draw reads no register and writes none. -/
theorem genrDrawn_withRegs (length : Word) (src : Source) :
    genrDrawn length src (s.withRegs len seed cur) = (genrDrawn length src s).withRegs len seed cur := by
  unfold genrDrawn
  split <;> rfl

theorem drawAnswer_withRegs (length : Word) (src : Source) :
    drawAnswer src length (s.withRegs len seed cur) = drawAnswer src length s := rfl

variable {s}

/-- In phase IDLE no command tells the registers apart. -/
theorem exec_withRegs (hidle : s.phase = .idle) (i : Instr) :
    BothNext (exec i s) (exec i (s.withRegs len seed cur)) := by
  cases i with
  | gen length => exact ⟨_, _, rfl, rfl, startWith_withRegs len seed cur s length 0⟩
  | genr length src =>
    rw [exec_genr, exec_genr, genrDrawn_withRegs, drawAnswer_withRegs]
    exact ⟨_, _, rfl, rfl, startWith_withRegs len seed cur _ length _⟩
  | gens length arg => exact ⟨_, _, rfl, rfl, startWith_withRegs len seed cur s length arg⟩
  | next =>
    exact ⟨_, _, exec_next_of_idle hidle, exec_next_of_idle (s := s.withRegs len seed cur) hidle,
      .inr ⟨hidle, len, seed, cur, rfl⟩⟩

/-- In phase IDLE no step tells the registers apart. -/
theorem step_withRegs (hidle : s.phase = .idle) : BothNext (step s) (step (s.withRegs len seed cur)) := by
  unfold step
  cases hinputs : s.inputs with
  | nil =>
    rw [takeInput_eq_none.2 hinputs, (takeInput_eq_none (s := s.withRegs len seed cur)).2 hinputs]
    exact ⟨_, _, rfl, rfl, .inr ⟨hidle, len, seed, cur, rfl⟩⟩
  | cons input rest =>
    rw [takeInput_eq_some.2 ⟨rest, hinputs, rfl⟩,
      (takeInput_eq_some (s := s.withRegs len seed cur)).2 ⟨rest, hinputs, rfl⟩]
    cases input with
    | command w =>
      dsimp only
      cases decode w with
      | ok i => exact exec_withRegs (s := { s with inputs := rest }) len seed cur hidle i
      | error _ => exact ⟨_, _, rfl, rfl, .inr ⟨hidle, len, seed, cur, rfl⟩⟩
    | reset => exact ⟨_, _, rfl, rfl, .inl rfl⟩
    | resetDuring w requested => exact ⟨_, _, rfl, rfl, .inl (by cases requested <;> rfl)⟩

end

theorem run_succ_of_step {M : Host.Core} {s t : M.State} (h : M.step s = .next t) (n : Nat) :
    M.run (n + 1) s = M.run n t := by
  rw [Host.Core.run, h]

/-- R150: equal states and idle twins show the host the same, however many steps are taken. -/
theorem observe_run_of_equalOrIdleTwins (n : Nat) {s s' : State} (h : EqualOrIdleTwins s s') :
    observe (Host.Core.run core n s') = observe (Host.Core.run core n s) := by
  induction n generalizing s s' with
  | zero => obtain rfl | ⟨-, _, _, _, rfl⟩ := h <;> rfl
  | succ n ih =>
    obtain rfl | ⟨hidle, len, seed, cur, rfl⟩ := h
    · rfl
    · obtain ⟨t, t', ht, ht', htwins⟩ := step_withRegs len seed cur hidle
      rw [run_succ_of_step (M := core) ht, run_succ_of_step (M := core) ht']
      exact ih htwins

end Sys2Proof.Machine
end

section
/-! The theorems that settle the statements of the family 10_state.md. -/

namespace Sys2Proof.Machine

/-- Settles O57: a command keeps the invariant by `stateInv_exec`, an illegal word writes no register and emits nothing, and a
reset goes to IDLE. -/
theorem stepKeepsTheInvariant : Obligations.StepKeepsTheInvariant := by
  intro s t hinv h
  obtain ⟨-, hstep⟩ | ⟨rest, ⟨w, i, -, -, hstep⟩ | ⟨w, e, -, -, hstep⟩ | ⟨-, hstep⟩ | ⟨w, requested, -, hstep⟩⟩ :=
    step_cases s
  · cases hstep.symm.trans h
    exact hinv
  · exact stateInv_exec (s := { s with inputs := rest }) hinv (hstep.symm.trans h)
  · cases hstep.symm.trans h
    exact stateInv_raiseIllegal (s := { s with inputs := rest }) hinv
  · cases hstep.symm.trans h
    exact stateInv_of_idle rfl
  · cases hstep.symm.trans h
    exact stateInv_of_idle (cutShort_phase w requested _)

/-- Settles O23: no command writes the ROM, and neither does an illegal word or a reset. -/
theorem romIsNeverWritten : Obligations.RomIsNeverWritten := by
  intro s t h
  suffices htaps : t.taps = s.taps from ⟨htaps, romRead_congr htaps⟩
  obtain ⟨-, hstep⟩ | ⟨rest, ⟨w, i, -, -, hstep⟩ | ⟨w, e, -, -, hstep⟩ | ⟨-, hstep⟩ | ⟨w, requested, -, hstep⟩⟩ :=
    step_cases s
  · cases hstep.symm.trans h
    rfl
  · exact exec_taps (s := { s with inputs := rest }) (hstep.symm.trans h)
  · cases hstep.symm.trans h
    rfl
  · cases hstep.symm.trans h
    rfl
  · cases hstep.symm.trans h
    exact cutShort_taps w requested _

/-- Settles O24: the bit width of a length below 2^31 is at most 31, so MASK is not word 30, and NEXT sees the ROM through MASK
only. -/
theorem lastRomWordIsNeverRead : Obligations.LastRomWordIsNeverRead := by
  intro s m hlen
  have hindex : (romIndex s.len).val ≤ 29 := by
    have := bitWidth_le_of_lt_two_pow (by decide) hlen
    rw [romIndex_val]
    omega
  have hnext := exec_next_withTaps (maskOf_set_of_ne (i := 30) (by decide) m (Nat.ne_of_lt (Nat.lt_succ_of_le hindex)))
  exact ⟨hindex, fun t ht => by rwa [ht] at hnext, fun f hf => by rwa [hf] at hnext⟩

/-- Settles O40, by the cases of `NextAnswers`. -/
theorem nextFrame : Obligations.NextFrame := by
  intro s t hexec
  have h := nextAnswers_of_exec hexec
  exact ⟨h.len_eq, h.seed_eq, h.taps_eq, romRead_congr h.taps_eq, h.requests_eq, h.answers_eq, h.inputs_eq, h.cur_eq,
    h.rsps_eq⟩

/-- Settles O41: every start command is the shared start, which loads and answers OK or raises InvalidArgument. -/
theorem startFrame : Obligations.StartFrame := by
  intro i s t hi h
  have htaps := exec_taps h
  obtain ⟨length, seed, s₀, hstart, hs₀⟩ := exec_of_ne_next hi s
  cases hstart.symm.trans h
  have hinputs : s₀.inputs = s.inputs := by obtain rfl | ⟨_, _, -, rfl⟩ := hs₀ <;> simp
  have hrsps : s₀.rsps = s.rsps := by obtain rfl | ⟨_, _, -, rfl⟩ := hs₀ <;> simp
  have hregs : s₀.len = s.len ∧ s₀.seed = s.seed ∧ s₀.cur = s.cur := by
    obtain rfl | ⟨_, _, -, rfl⟩ := hs₀ <;> simp
  refine ⟨htaps, romRead_congr htaps, (startWith_inputs length seed s₀).trans hinputs, fun hgenr => ?_, ?_⟩
  · obtain rfl | ⟨length', src, rfl, -⟩ := hs₀
    · exact ⟨startWith_requests length seed s₀, startWith_answers length seed s₀⟩
    · exact absurd rfl (hgenr length' src)
  · obtain ⟨-, hload⟩ | ⟨-, reason, value, hraise⟩ := startWith_load_or_raise length seed s₀
    · exact ⟨rspWord .ok 0, by simp [hload, hrsps], fun hne => absurd rfl hne⟩
    · exact ⟨rspWord (reasonStatus reason) value, by simp [hraise, hrsps], fun _ => by simpa [hraise] using hregs⟩

/-- Settles O42: `startWith_phase` for the start commands, the cases of `NextAnswers` for NEXT. -/
theorem phaseTransitionTable : Obligations.PhaseTransitionTable := by
  intro i s t h
  cases i with
  | gen length =>
    cases h
    have hvalid : 1 ≤ length.toInt ∧ ValidPair length.toInt (0 : Word).toInt ↔ 1 ≤ length.toInt := by
      have : (0 : Word).toInt = 0 := by decide
      omega
    simp only [startWith_phase, hvalid]
  | genr length src =>
    cases (exec_genr length src s).symm.trans h
    exact startWith_phase length _ _
  | gens length arg =>
    cases h
    exact startWith_phase length arg s
  | next =>
    cases nextAnswers_of_exec h with
    | idle hphase => simp [hphase]
    | firstOfOne hphase hone => simp [hphase, hone]
    | firstOfTwo hphase htwo => simp [hphase, htwo]
    | firstOfMany hphase hone htwo => simp [hphase, hone, htwo]
    | second hphase => simp [hphase]
    | runEnded k hphase => simp [hphase, startOf]
    | runElem k hphase _ _ hne hle =>
      simp only [hphase]
      exact .inl ⟨rfl, hne, hle⟩

/-- Settles O59: the two states are idle twins, which no number of steps tells apart. -/
theorem idleRegistersAreUnobservable : Obligations.IdleRegistersAreUnobservable :=
  fun s len seed cur n hidle =>
    observe_run_of_equalOrIdleTwins n (s := s) (s' := s.withRegs len seed cur) (.inr ⟨hidle, len, seed, cur, rfl⟩)

/-- Settles O52: the fields of the reset state. -/
theorem resetLeavesIdle : Obligations.ResetLeavesIdle := ⟨rfl, rfl, rfl, rfl⟩

/-- Settles O55: in a live phase SEED is below LEN, so SEED + 1 does not wrap. -/
theorem startLiesWithinTheLength : Obligations.StartLiesWithinTheLength := by
  intro s hinv hlive
  have hseed := seed_lt_len_of_stateInv hinv hlive
  have hstart : (startOf s).toNat = s.seed.toNat + 1 := toNat_add_one_of_lt hseed
  omega

/-- Settles O56: the reset state is IDLE. -/
theorem resetMeetsTheInvariant : Obligations.ResetMeetsTheInvariant := stateInv_of_idle rfl

end Sys2Proof.Machine
end

section
/-! SUPPORT. The family 20_memory.md, part 1: long orbits evaluated by squaring, to find the period of a mask (20_memory.md R36
to R39). The step is linear over XOR, and by it the b-bit states multiply; the state `2^(b-1)` is the unit, and its orbit
multiplies by adding the numbers of steps. The evaluation is on natural numbers, whose operations the kernel computes. -/

namespace Sys2Proof.Machine

open Function

/-- One LFSR step on the unsigned readings of the mask and the register (R95). -/
def stepNat (m c : Nat) : Nat := c / 2 ^^^ m * (c % 2)

/-- The product of two `n`-bit states: for each 1 among the low `n` bits of `c`, at place `i`, the state `d` after `n - 1 - i`
steps, all added by XOR. -/
def mulNat (m c d : Nat) : Nat → Nat
  | 0 => 0
  | n + 1 => d * (c / 2 ^ n % 2) ^^^ stepNat m (mulNat m c d n)

/-- The state `e` steps after `2^(b-1)`, for a number `e` of at most `n` bits, by squaring. -/
def powNat (b m : Nat) : Nat → Nat → Nat
  | 0, _ => 2 ^ (b - 1)
  | n + 1, e =>
    let half := powNat b m n (e / 2)
    let square := mulNat m half half b
    if e % 2 = 1 then stepNat m square else square

/-- The b-bit state with only its top bit set, the unit of the product. -/
def topState (b : Nat) : Word := BitVec.twoPow 32 (b - 1)

theorem toNat_topState {b : Nat} (hb : b ≤ 32) : (topState b).toNat = 2 ^ (b - 1) := by
  rw [topState, BitVec.toNat_twoPow]
  exact Nat.mod_eq_of_lt (Nat.pow_lt_pow_right (by decide) (by omega))

theorem toNat_lfsrStep (c m : Word) : (lfsrStep c m).toNat = stepNat m.toNat c.toNat := by
  have hlow : c.getLsbD 0 = decide (c.toNat % 2 = 1) := Nat.testBit_zero c.toNat
  rw [lfsrStep, feedbackSelect_eq, hlow, stepNat]
  obtain h | h := Nat.mod_two_eq_zero_or_one c.toNat <;>
    simp [h, Nat.shiftRight_eq_div_pow, -BitVec.reduceAllOnes]

theorem toNat_orbit (m c : Word) (k : Nat) : (orbit m c k).toNat = (stepNat m.toNat)^[k] c.toNat := by
  induction k with
  | zero => rfl
  | succ k ih => rw [orbit_succ, toNat_lfsrStep, ih, iterate_succ_apply']

/-- R38: the step is linear. -/
theorem stepNat_xor (m c d : Nat) : stepNat m (c ^^^ d) = stepNat m c ^^^ stepNat m d := by
  have hsplit : m * ((c ^^^ d) % 2) = m * (c % 2) ^^^ m * (d % 2) := by
    rw [Nat.xor_mod_two_eq, Nat.add_mod]
    obtain hc | hc := Nat.mod_two_eq_zero_or_one c <;> obtain hd | hd := Nat.mod_two_eq_zero_or_one d <;> simp [hc, hd]
  rw [stepNat, hsplit, Nat.xor_div_two, stepNat, stepNat]
  ac_rfl

/-- R106 (c): the step of an even state is its half, whatever the mask. -/
@[simp] theorem stepNat_two_mul (m c : Nat) : stepNat m (2 * c) = c := by simp [stepNat]

/-- The product is linear in its second factor, so it commutes with the step. -/
theorem mulNat_semiconj (m c n : Nat) : Semiconj (mulNat m c · n) (stepNat m) (stepNat m) := by
  intro d
  induction n with
  | zero => simp [mulNat, stepNat]
  | succ n ih =>
    have hbit : stepNat m d * (c / 2 ^ n % 2) = stepNat m (d * (c / 2 ^ n % 2)) := by
      obtain h | h := Nat.mod_two_eq_zero_or_one (c / 2 ^ n) <;> simp [h, stepNat]
    simp only [mulNat, stepNat_xor, ih, hbit]

theorem two_pow_mul_xor_of_lt {n low : Nat} (h : low < 2 ^ n) (high : Nat) : 2 ^ n * high ^^^ low = 2 ^ n * high + low := by
  refine Nat.eq_of_testBit_eq fun i => ?_
  rw [Nat.testBit_two_pow_mul_add high h, Nat.testBit_xor, Nat.testBit_two_pow_mul]
  split
  · next hi => simp [Nat.not_le_of_lt hi]
  · next hi =>
    have hi := Nat.le_of_not_lt hi
    simp [hi, Nat.testBit_lt_two_pow (h.trans_le (Nat.pow_le_pow_right (by decide) hi))]

/-- With the unit as second factor no step of the product feeds anything back: the low `n` bits of `c` stand at the top. -/
theorem mulNat_unit_partial (m c n r : Nat) : mulNat m c (2 ^ (n + r - 1)) n = 2 ^ r * (c % 2 ^ n) := by
  induction n generalizing r with
  | zero => simp [mulNat, Nat.mod_one]
  | succ n ih =>
    have hlow : 2 ^ r * (c % 2 ^ n) < 2 ^ (n + r) := by
      rw [Nat.add_comm, Nat.pow_add]
      exact Nat.mul_lt_mul_of_pos_left (Nat.mod_lt _ (by positivity)) (by positivity)
    calc mulNat m c (2 ^ (n + 1 + r - 1)) (n + 1)
        = 2 ^ (n + r) * (c / 2 ^ n % 2) ^^^ stepNat m (mulNat m c (2 ^ (n + (r + 1) - 1)) n) := by
          rw [mulNat, Nat.add_right_comm]; rfl
      _ = 2 ^ (n + r) * (c / 2 ^ n % 2) ^^^ 2 ^ r * (c % 2 ^ n) := by
          rw [ih, Nat.pow_succ', Nat.mul_assoc, stepNat_two_mul]
      _ = 2 ^ r * (c % 2 ^ (n + 1)) := by
          rw [two_pow_mul_xor_of_lt hlow, Nat.mod_pow_succ]
          ring

theorem mulNat_unit {b c : Nat} (hc : c < 2 ^ b) (m : Nat) : mulNat m c (2 ^ (b - 1)) b = c := by
  simpa [Nat.mod_eq_of_lt hc] using mulNat_unit_partial m c b 0

/-- TapRange speaks of a width that a word has: the top bit of the mask is one of its 32 bits. -/
theorem le_of_tapRange {b : Nat} {m : Word} (h : TapRange b m) : b ≤ 32 := by
  have := BitVec.lt_of_getLsbD h.2
  omega

theorem topState_lt_two_pow {b : Nat} {m : Word} (h : TapRange b m) : (topState b).toNat < 2 ^ b := by
  have := ne_zero_of_tapRange h
  rw [toNat_topState (le_of_tapRange h)]
  exact Nat.pow_lt_pow_right (by decide) (by omega)

/-- A state times the one `k` steps after the unit is the state `k` steps on. -/
theorem mulNat_orbit_topState {b : Nat} {c : Word} (hb : b ≤ 32) (hc : c.toNat < 2 ^ b) (m : Word) (k : Nat) :
    mulNat m.toNat c.toNat (orbit m (topState b) k).toNat b = (orbit m c k).toNat := by
  rw [toNat_orbit, toNat_orbit, toNat_topState hb]
  exact ((mulNat_semiconj m.toNat c.toNat b).iterate_right k _).trans (congrArg _ (mulNat_unit hc _))

/-- The evaluation by squaring gives the orbit of the unit. -/
theorem powNat_eq_orbit {b : Nat} {m : Word} (h : TapRange b m) {n e : Nat} (he : e < 2 ^ n) :
    powNat b m.toNat n e = (orbit m (topState b) e).toNat := by
  have hb := le_of_tapRange h
  induction n generalizing e with
  | zero =>
    obtain rfl : e = 0 := by simpa using he
    exact (toNat_topState hb).symm
  | succ n ih =>
    have hhalf := ih (e := e / 2) (by omega)
    have hsquare := mulNat_orbit_topState hb (orbit_lt_two_pow (topState_lt_two_pow h) h.1 (e / 2)) m (e / 2)
    rw [← orbit_add] at hsquare
    simp only [powNat, hhalf, hsquare, ← toNat_lfsrStep, ← orbit_succ]
    split
    · rw [show e / 2 + e / 2 + 1 = e by omega]
    · rw [show e / 2 + e / 2 = e by omega]

theorem powNat_eq_unit_iff {b : Nat} {m : Word} (h : TapRange b m) {e : Nat} (he : e < 2 ^ b) :
    powNat b m.toNat b e = 2 ^ (b - 1) ↔ IsPeriodicPt (stepBy m) e (topState b) := by
  rw [powNat_eq_orbit h he, ← toNat_topState (le_of_tapRange h), BitVec.toNat_inj, orbit_eq_iterate]
  rfl

/-- The unit is `b - 1` halvings above the state 1. -/
theorem orbit_topState_eq_one {b : Nat} (hb : b ≤ 32) (m : Word) : orbit m (topState b) (b - 1) = 1 := by
  refine BitVec.eq_of_toNat_eq ?_
  rw [toNat_orbit, toNat_topState hb]
  induction b - 1 with
  | zero => rfl
  | succ k ih => rw [iterate_succ_apply, Nat.pow_succ', stepNat_two_mul, ih]

end Sys2Proof.Machine
end

section
/-! SUPPORT. The family 20_memory.md, part 2: when a mask has the period `2^b - 1`, by the primes that divide this number (20_memory.md
R36). -/

namespace Sys2Proof.Machine

open Function

/-- A multiple of the period from which no prime can be divided out is the period. -/
theorem minimalPeriod_eq_of_prime_quotients {α : Type} {f : α → α} {x : α} {n : Nat} (hn : IsPeriodicPt f n x)
    (hquot : ∀ q, q.Prime → q ∣ n → ¬IsPeriodicPt f (n / q) x) : minimalPeriod f x = n := by
  obtain ⟨a, rfl⟩ := hn.minimalPeriod_dvd
  by_contra hne
  have hprime : a.minFac.Prime := Nat.minFac_prime fun ha => hne (by simp [ha])
  refine hquot _ hprime ((Nat.minFac_dvd a).mul_left _) (isPeriodicPt_iff_minimalPeriod_dvd.2 ?_)
  exact ⟨a / a.minFac, Nat.mul_div_assoc _ (Nat.minFac_dvd a)⟩

/-- R36: TapOK is TapRange and the period `2^b - 1` of the state 1. -/
theorem tapOK_of_minimalPeriod {b : Nat} {m : Word} (h : TapRange b m) (hperiod : minimalPeriod (stepBy m) 1 = 2 ^ b - 1) :
    TapOK b m := by
  refine ⟨h, ?_, fun k hk h1 => ?_⟩
  · rw [orbit_eq_iterate, ← hperiod, iterate_minimalPeriod]
  · rw [orbit_eq_iterate]
    exact not_isPeriodicPt_of_pos_of_lt_minimalPeriod (by omega) (by rwa [hperiod])

/-- The primes that divide `2^b - 1` for some width b from 2 to 32. -/
def mersennePrimes : List Nat :=
  [3, 5, 7, 11, 13, 17, 19, 23, 29, 31, 41, 43, 47, 73, 89, 113, 127, 151, 233, 241, 257, 331, 337, 601, 683, 1103, 1801, 2089,
    2731, 8191, 65537, 131071, 178481, 262657, 524287, 2147483647]

/-- The list holds primes only; the largest is the Mersenne prime `2^31 - 1`, by the Lucas–Lehmer test. -/
theorem prime_of_mem_mersennePrimes : ∀ q ∈ mersennePrimes, q.Prime := by
  have hlargest : Nat.Prime 2147483647 := lucas_lehmer_sufficiency 31 (by decide) (by norm_num)
  simp only [mersennePrimes, List.forall_mem_cons, List.not_mem_nil, false_implies, implies_true, and_true, hlargest]
  norm_num

/-- The list holds every prime divisor of `2^b - 1`, since this number divides the cube of the list's product. -/
theorem mem_mersennePrimes {b q : Nat} (h2 : 2 ≤ b) (hb : b ≤ 32) (hq : q.Prime) (hdvd : q ∣ 2 ^ b - 1) :
    q ∈ mersennePrimes := by
  have hcube : ∀ i : Fin 31, 2 ^ (i.val + 2) - 1 ∣ mersennePrimes.prod ^ 3 := by decide
  have hprod := hcube ⟨b - 2, by omega⟩
  rw [Nat.sub_add_cancel h2] at hprod
  exact mem_list_primes_of_dvd_prod hq.prime (fun r hr => (prime_of_mem_mersennePrimes r hr).prime)
    (hq.dvd_of_dvd_pow (hdvd.trans hprod))

/-- The mask passes the test of the period: after `2^b - 1` steps the unit recurs, and after this number divided by one of its
primes it does not. -/
abbrev FullPeriodTest (b : Nat) (m : Word) : Prop :=
  powNat b m.toNat b (2 ^ b - 1) = 2 ^ (b - 1) ∧
    ∀ q ∈ mersennePrimes, q ∣ 2 ^ b - 1 → powNat b m.toNat b ((2 ^ b - 1) / q) ≠ 2 ^ (b - 1)

/-- R36: a mask in range that passes the test is a maximal-length mask. -/
theorem tapOK_of_fullPeriodTest {b : Nat} {m : Word} (h2 : 2 ≤ b) (h : TapRange b m) (htest : FullPeriodTest b m) :
    TapOK b m := by
  obtain ⟨hreturn, hquot⟩ := htest
  have hlt : 2 ^ b - 1 < 2 ^ b := Nat.sub_lt (by positivity) one_pos
  have hperiodic : IsPeriodicPt (stepBy m) (2 ^ b - 1) (topState b) := (powNat_eq_unit_iff h hlt).1 hreturn
  have hperiod : minimalPeriod (stepBy m) (topState b) = 2 ^ b - 1 := by
    refine minimalPeriod_eq_of_prime_quotients hperiodic fun q hq hdvd hper => ?_
    exact hquot q (mem_mersennePrimes h2 (le_of_tapRange h) hq hdvd) hdvd
      ((powNat_eq_unit_iff h ((Nat.div_le_self _ _).trans_lt hlt)).2 hper)
  refine tapOK_of_minimalPeriod h ?_
  rw [← orbit_topState_eq_one (le_of_tapRange h) m, orbit_eq_iterate, minimalPeriod_apply_iterate, hperiod]
  exact minimalPeriod_pos_iff_mem_periodicPts.1 (hperiod ▸ Nat.sub_pos_of_lt (Nat.one_lt_two_pow (by omega)))

/-- The masks of the default table pass the test (R39). The kernel evaluates it: some 120 powers, each of at most 32 squarings,
where the orbits themselves are up to `2^32 - 1` steps long. -/
theorem fullPeriodTest_defaultTaps : ∀ i : Fin 31, FullPeriodTest (i.val + 2) State.reset.taps[i] := by
  decide +kernel

end Sys2Proof.Machine
end

section
/-! The theorems that settle the statements of the family 20_memory.md. -/

namespace Sys2Proof.Machine

open Function

/-- Settles O30: the orbit of 1 stays among the nonzero b-bit states and meets each of them; each has the period `2^b - 1`. -/
theorem tapOKOrbitIsFull : Obligations.TapOKOrbitIsFull := by
  intro b m h
  have hone : (1 : Word).toNat < 2 ^ b := Nat.one_lt_two_pow (ne_zero_of_tapRange h.1)
  have hnonzero {c : Word} : 1 ≤ c.toNat ↔ c ≠ 0 := Nat.one_le_iff_ne_zero.trans (BitVec.toNat_ne (y := 0)).symm
  refine ⟨fun c => ⟨fun ⟨hc, hb⟩ => exists_orbit_one_eq h (hnonzero.1 hc) hb, ?_⟩, fun c k hc hb => ?_⟩
  · rintro ⟨k, -, rfl⟩
    exact ⟨hnonzero.2 (orbit_ne_zero_of_tapRange h.1 (by decide) hone k), orbit_lt_two_pow hone h.1.1 k⟩
  · rw [← minimalPeriod_of_tapOK h (hnonzero.1 hc) hb, ← isPeriodicPt_iff_minimalPeriod_dvd, orbit_eq_iterate]
    rfl

/-- Settles O31, bit by bit: at place 0 the low bit of c meets the 1 below the mask, at place i + 1 stands bit i of the step. -/
theorem stepIsDivisionByX : Obligations.StepIsDivisionByX := by
  intro c m
  refine BitVec.eq_of_getLsbD_eq fun i hi => ?_
  have hpattern : (m ++ 1#1).getLsbD i = if i < 1 then (1#1).getLsbD i else m.getLsbD (i - 1) := BitVec.getLsbD_append
  cases i with
  | zero => cases h : c.getLsbD 0 <;> simp [h, hpattern, -BitVec.getLsbD_eq_getElem]
  | succ i =>
    have hi' : i < 33 := by omega
    cases h : c.getLsbD 0 <;> simp [h, hi, hi', hpattern, getLsbD_lfsrStep, -BitVec.getLsbD_eq_getElem]

/-- Settles O25: the 31 words, one by one. -/
theorem defaultTableMeetsTapRange : Obligations.DefaultTableMeetsTapRange := by
  unfold Obligations.DefaultTableMeetsTapRange
  decide

/-- Settles O26: each word is in range (O25) and passes the test of its period. -/
theorem defaultTableMeetsRomOK : Obligations.DefaultTableMeetsRomOK := fun i =>
  tapOK_of_fullPeriodTest (Nat.le_add_left 2 i) (defaultTableMeetsTapRange i) (fullPeriodTest_defaultTaps i)

end Sys2Proof.Machine
end

section
/-! SUPPORT. The family 30_encoding.md, part 1: a command word is its three fields, read, joined and masked (30_encoding.md
R46 to R48). -/

namespace Sys2Proof

section
variable (opc : BitVec 4) (length arg : Word)

@[simp] theorem opcOf_append : opcOf ((opc ++ length) ++ arg) = opc := by
  unfold opcOf
  rw [BitVec.extractLsb'_append_eq_of_le (by decide)]
  exact BitVec.extractLsb'_append_eq_left

@[simp] theorem lengthOf_append : lengthOf ((opc ++ length) ++ arg) = length := by
  unfold lengthOf
  rw [BitVec.extractLsb'_append_eq_of_le (Nat.le_refl 32)]
  exact BitVec.extractLsb'_append_eq_right

@[simp] theorem argOf_append : argOf ((opc ++ length) ++ arg) = arg := BitVec.extractLsb'_append_eq_right

end

/-- R46: the three fields are the whole word. -/
theorem append_fields (w : CmdWord) : (opcOf w ++ lengthOf w) ++ argOf w = w := by
  have hhigh : opcOf w ++ lengthOf w = w.extractLsb' 32 36 := BitVec.extractLsb'_append_extractLsb'_eq_extractLsb' rfl
  rw [hhigh]
  exact BitVec.extractLsb'_append_extractLsb'

/-- R46: words with the same fields are the same word. -/
theorem eq_iff_fields {w w' : CmdWord} :
    w = w' ↔ opcOf w = opcOf w' ∧ lengthOf w = lengthOf w' ∧ argOf w = argOf w' := by
  constructor
  · rintro rfl
    exact ⟨rfl, rfl, rfl⟩
  · rintro ⟨hopc, hlength, harg⟩
    rw [← append_fields w, hopc, hlength, harg, append_fields]

/-- R48: a row masks and matches each field by itself. -/
theorem selects_iff_fields {r : Row} {w : CmdWord} : r.selects w = true ↔
    opcOf w &&& opcOf r.mask = opcOf r.pattern ∧ lengthOf w &&& lengthOf r.mask = lengthOf r.pattern ∧
      argOf w &&& argOf r.mask = argOf r.pattern := by
  rw [Row.selects, beq_iff_eq, eq_iff_fields]
  simp only [opcOf, lengthOf, argOf, BitVec.extractLsb'_and]

@[simp] theorem sourceOfBit_bitOfSource (src : Source) : sourceOfBit (bitOfSource src) = src := by cases src <;> rfl

@[simp] theorem bitOfSource_sourceOfBit : ∀ b : BitVec 1, bitOfSource (sourceOfBit b) = b := by decide

/-- R47: an ARG whose reserved bits are 0 is its source's SRC bit. -/
theorem append_bitOfSource_of_reserved {arg : Word} (h : arg.extractLsb' 1 31 = 0) :
    (0#31 ++ bitOfSource (sourceOfBit (arg.extractLsb' 0 1)) : Word) = arg := by
  rw [bitOfSource_sourceOfBit]
  have hbits : arg.extractLsb' 1 31 ++ arg.extractLsb' 0 1 = arg := BitVec.extractLsb'_append_extractLsb'
  rwa [h] at hbits

/-- R48, row GENR: the mask of ARG holds the 31 reserved bits. -/
theorem reserved_of_and_mask {arg : Word} (h : arg &&& 0xFFFFFFFE#32 = 0) : arg.extractLsb' 1 31 = 0 := by
  have hbits : arg.extractLsb' 1 31 &&& BitVec.allOnes 31 = 0 := by
    simpa [BitVec.extractLsb'_and] using congrArg (BitVec.extractLsb' 1 31) h
  rwa [BitVec.and_allOnes] at hbits

end Sys2Proof
end

section
/-! SUPPORT. The family 30_encoding.md, part 2: what the decoder and the rows do with a word, said once, and that both have
the encoder for their inverse (30_encoding.md R47, R48, R50). -/

namespace Sys2Proof

/-- What the decoder can answer, branch by branch (R47, R50). -/
inductive Decodes (w : CmdWord) : Except DecodeError Instr → Prop
  | gen (hopc : opcOf w = 0x1) (harg : argOf w = 0) : Decodes w (.ok (.gen (lengthOf w)))
  | genArg (hopc : opcOf w = 0x1) (harg : argOf w ≠ 0) : Decodes w (.error .genArgNotZero)
  | genr (hopc : opcOf w = 0x2) (hreserved : (argOf w).extractLsb' 1 31 = 0) :
      Decodes w (.ok (.genr (lengthOf w) (sourceOfBit ((argOf w).extractLsb' 0 1))))
  | genrReserved (hopc : opcOf w = 0x2) (hreserved : (argOf w).extractLsb' 1 31 ≠ 0) :
      Decodes w (.error .genrReservedNotZero)
  | gens (hopc : opcOf w = 0x3) : Decodes w (.ok (.gens (lengthOf w) (argOf w)))
  | next (hopc : opcOf w = 0x4) (hlength : lengthOf w = 0) (harg : argOf w = 0) : Decodes w (.ok .next)
  | nextLength (hopc : opcOf w = 0x4) (hlength : lengthOf w ≠ 0) : Decodes w (.error .nextLengthNotZero)
  | nextArg (hopc : opcOf w = 0x4) (hlength : lengthOf w = 0) (harg : argOf w ≠ 0) : Decodes w (.error .nextArgNotZero)
  | reserved (hopc : opcOf w = 0x0 ∨ 5 ≤ (opcOf w).toNat) : Decodes w (.error .reservedOpcode)

/-- R47, R50: an opcode of no command is 0 or at least 5. -/
theorem reserved_opcode {opc : BitVec 4} (h1 : opc ≠ 0x1) (h2 : opc ≠ 0x2) (h3 : opc ≠ 0x3) (h4 : opc ≠ 0x4) :
    opc = 0x0 ∨ 5 ≤ opc.toNat := by
  bv_omega

theorem decodes_decode (w : CmdWord) : Decodes w (decode w) := by
  unfold decode
  split
  · next h1 =>
    split
    · next harg => exact .gen h1 harg
    · next harg => exact .genArg h1 harg
  · next h1 =>
    split
    · next h2 =>
      split
      · next hreserved => exact .genr h2 hreserved
      · next hreserved => exact .genrReserved h2 hreserved
    · next h2 =>
      split
      · next h3 => exact .gens h3
      · next h3 =>
        split
        · next h4 =>
          split
          · next hlength => exact .nextLength h4 hlength
          · next hlength =>
            split
            · next harg => exact .nextArg h4 (not_not.1 hlength) harg
            · next harg => exact .next h4 (not_not.1 hlength) (not_not.1 harg)
        · next h4 => exact .reserved (reserved_opcode h1 h2 h3 h4)

/-- R47: the decoder finds every command in its word. -/
theorem decode_encode (i : Instr) : decode (encode i) = .ok i := by
  cases i with
  | gen length => simp [decode, encode]
  | genr length src =>
    have hreserved : (0#31 ++ bitOfSource src : Word).extractLsb' 1 31 = 0 := BitVec.extractLsb'_append_eq_left
    have hsrc : (0#31 ++ bitOfSource src : Word).extractLsb' 0 1 = bitOfSource src := BitVec.extractLsb'_append_eq_right
    simp [decode, encode, hreserved, hsrc]
  | gens length arg => simp [decode, encode]
  | next => rfl

section
variable {w : CmdWord}

/-! R46, R47: a word with the fields of a command is the encoding of that command. -/

theorem encode_gen_of_fields (hopc : opcOf w = 0x1) (harg : argOf w = 0) : encode (.gen (lengthOf w)) = w := by
  simp [eq_iff_fields, encode, hopc, harg]

theorem encode_genr_of_fields (hopc : opcOf w = 0x2) (hreserved : (argOf w).extractLsb' 1 31 = 0) :
    encode (.genr (lengthOf w) (sourceOfBit ((argOf w).extractLsb' 0 1))) = w := by
  rw [encode, append_bitOfSource_of_reserved hreserved]
  simp [eq_iff_fields, hopc]

theorem encode_gens_of_fields (hopc : opcOf w = 0x3) : encode (.gens (lengthOf w) (argOf w)) = w := by
  simp [eq_iff_fields, encode, hopc]

theorem encode_next_of_fields (hopc : opcOf w = 0x4) (hlength : lengthOf w = 0) (harg : argOf w = 0) :
    encode .next = w := by
  rw [← append_fields w, hopc, hlength, harg]
  rfl

/-- R47: a word that decodes is the encoding of its command. -/
theorem encode_of_decode {i : Instr} (h : decode w = .ok i) : encode i = w := by
  have hdecodes := decodes_decode w
  rw [h] at hdecodes
  cases hdecodes with
  | gen hopc harg => exact encode_gen_of_fields hopc harg
  | genr hopc hreserved => exact encode_genr_of_fields hopc hreserved
  | gens hopc => exact encode_gens_of_fields hopc
  | next hopc hlength harg => exact encode_next_of_fields hopc hlength harg

end

/-- R48: the row of a command selects its word (the law EncodeSelectsRow, for all commands). -/
theorem row_selects_encode (i : Instr) : i.row.selects (encode i) = true := by
  cases i with
  | gen length => exact Laws.EncodeSelectsRow.gen length
  | genr length src => exact Laws.EncodeSelectsRow.genr length src
  | gens length arg => exact Laws.EncodeSelectsRow.gens length arg
  | next => exact Laws.EncodeSelectsRow.next

theorem row_mem_rows (i : Instr) : i.row ∈ rows := by cases i <;> simp [Instr.row, rows]

/-- R48: what a row selects is the word of a command of that row. -/
theorem exists_encode_of_selects {r : Row} {w : CmdWord} (hr : r ∈ rows) (h : r.selects w = true) :
    ∃ i : Instr, i.row = r ∧ encode i = w := by
  obtain ⟨hopc, hlength, harg⟩ := selects_iff_fields.1 h
  simp only [rows, List.mem_cons, List.not_mem_nil, or_false] at hr
  obtain rfl | rfl | rfl | rfl := hr
  · exact ⟨.gen _, rfl, encode_gen_of_fields (BitVec.and_allOnes.symm.trans hopc) (BitVec.and_allOnes.symm.trans harg)⟩
  · exact ⟨.genr _ _, rfl, encode_genr_of_fields (BitVec.and_allOnes.symm.trans hopc) (reserved_of_and_mask harg)⟩
  · exact ⟨.gens _ _, rfl, encode_gens_of_fields (BitVec.and_allOnes.symm.trans hopc)⟩
  · exact ⟨.next, rfl, encode_next_of_fields (BitVec.and_allOnes.symm.trans hopc) (BitVec.and_allOnes.symm.trans hlength)
      (BitVec.and_allOnes.symm.trans harg)⟩

/-- R48: two rows that select a word are one row, the row of the one command the word encodes. -/
theorem row_eq_of_selects {r r' : Row} {w : CmdWord} (hr : r ∈ rows) (hr' : r' ∈ rows) (h : r.selects w = true)
    (h' : r'.selects w = true) : r = r' := by
  obtain ⟨i, rfl, rfl⟩ := exists_encode_of_selects hr h
  obtain ⟨i', rfl, hi'⟩ := exists_encode_of_selects hr' h'
  have hdecode := (decode_encode i').symm.trans (hi' ▸ decode_encode i)
  cases hdecode
  rfl

/-- R48, R50: the decoder accepts the well-formed words. -/
theorem exists_decode_iff_wellFormedWord {w : CmdWord} : (∃ i, decode w = .ok i) ↔ wellFormedWord w = true := by
  rw [wellFormedWord, List.any_eq_true]
  constructor
  · rintro ⟨i, hi⟩
    exact ⟨i.row, row_mem_rows i, encode_of_decode hi ▸ row_selects_encode i⟩
  · rintro ⟨r, hr, hselects⟩
    obtain ⟨i, -, rfl⟩ := exists_encode_of_selects hr hselects
    exact ⟨i, decode_encode i⟩

/-- R50: the decoder rejects the other words. -/
theorem exists_decode_error_iff {w : CmdWord} : (∃ e, decode w = .error e) ↔ wellFormedWord w = false := by
  rw [← Bool.not_eq_true, ← exists_decode_iff_wellFormedWord]
  cases decode w <;> simp

/-- The illegal command words, as R50 lists them. -/
def IllegalFields (w : CmdWord) : Prop :=
  opcOf w = 0x0 ∨ 5 ≤ (opcOf w).toNat ∨ (opcOf w = 0x1 ∧ argOf w ≠ 0) ∨
    (opcOf w = 0x2 ∧ (argOf w).extractLsb' 1 31 ≠ 0) ∨ (opcOf w = 0x4 ∧ (lengthOf w ≠ 0 ∨ argOf w ≠ 0))

/-- R50: the decoder rejects exactly the words of R50's list. -/
theorem exists_decode_error_iff_illegalFields {w : CmdWord} : (∃ e, decode w = .error e) ↔ IllegalFields w := by
  have hdecodes := decodes_decode w
  generalize decode w = d at hdecodes ⊢
  unfold IllegalFields
  cases hdecodes with
  | gen hopc harg => exact iff_of_false nofun (by simp [hopc, harg])
  | genArg hopc harg => exact iff_of_true ⟨_, rfl⟩ (.inr (.inr (.inl ⟨hopc, harg⟩)))
  | genr hopc hreserved => exact iff_of_false nofun (by simp [hopc, hreserved])
  | genrReserved hopc hreserved => exact iff_of_true ⟨_, rfl⟩ (.inr (.inr (.inr (.inl ⟨hopc, hreserved⟩))))
  | gens hopc => exact iff_of_false nofun (by simp [hopc])
  | next hopc hlength harg => exact iff_of_false nofun (by simp [hopc, hlength, harg])
  | nextLength hopc hlength => exact iff_of_true ⟨_, rfl⟩ (.inr (.inr (.inr (.inr ⟨hopc, .inl hlength⟩))))
  | nextArg hopc _ harg => exact iff_of_true ⟨_, rfl⟩ (.inr (.inr (.inr (.inr ⟨hopc, .inr harg⟩))))
  | reserved hopc => exact iff_of_true ⟨_, rfl⟩ (hopc.imp_right .inl)

end Sys2Proof
end

section
/-! SUPPORT. The family 30_encoding.md, part 3: the response word, and the one response each command gives (30_encoding.md R52
to R54). -/

namespace Sys2Proof.Machine

/-- R52: STATUS stands above VALUE. -/
theorem toNat_rspWord (status : Status) (value : Word) :
    (rspWord status value).toNat = (statusCode status).toNat * 2 ^ 32 + value.toNat := by
  rw [rspWord, BitVec.toNat_append, ← Nat.shiftLeft_add_eq_or_of_lt value.isLt, Nat.shiftLeft_eq]

/-- R53: different statuses have different codes. -/
theorem statusCode_injective : Function.Injective statusCode := by
  intro a b
  cases a <;> cases b <;> decide

theorem rspWord_inj {status status' : Status} {value value' : Word} :
    rspWord status value = rspWord status' value' ↔ status = status' ∧ value = value' := by
  constructor
  · intro h
    exact ⟨statusCode_injective (by simpa using congrArg rspStatus h), by simpa using congrArg rspValue h⟩
  · rintro ⟨rfl, rfl⟩
    rfl

theorem append_rspWord_inj {rsps : List RspWord} {status status' : Status} {value value' : Word} :
    rsps ++ [rspWord status value] = rsps ++ [rspWord status' value'] ↔ status = status' ∧ value = value' := by
  rw [List.append_right_inj, List.singleton_inj, rspWord_inj]

/-- R53, R54: the one response of a start command. A seed error is given for a seed that is not 0 only. -/
theorem startWith_rsps (length seed : Word) (s : State) : ∃ status value,
    (startWith length seed s).rsps = s.rsps ++ [rspWord status value] ∧
      ((status = .ok ∧ value = 0) ∨ (status = .errLengthNeg ∧ value = length) ∨
        ((status = .errSeedNeg ∨ status = .errSeedRange) ∧ value = seed ∧ seed ≠ 0)) := by
  obtain ⟨reason, value, hsome, hraise⟩ | ⟨-, hload⟩ := startWith_cases length seed s
  · have hseed : seed = 0 → seed.toInt = 0 := by
      rintro rfl
      rfl
    refine ⟨reasonStatus reason, value, by rw [hraise, raiseInvalidArgument_rsps], ?_⟩
    obtain ⟨-, hv⟩ | ⟨-, hneg, hv⟩ | ⟨hlen, -, hle, hpair, hv⟩ | ⟨-, -, -, hv⟩ :=
      validate_cases length.toInt seed.toInt length seed
    · cases hsome.symm.trans hv
      exact .inr (.inl ⟨rfl, rfl⟩)
    · cases hsome.symm.trans hv
      exact .inr (.inr ⟨.inl rfl, rfl, fun h => by have := hseed h; omega⟩)
    · cases hsome.symm.trans hv
      exact .inr (.inr ⟨.inr rfl, rfl, fun h => by have := hseed h; omega⟩)
    · cases hsome.symm.trans hv
  · exact ⟨.ok, 0, by rw [hload, load_rsps], .inl ⟨rfl, rfl⟩⟩

/-- R53, R54: the one response of NEXT. -/
theorem NextAnswers.rsps_elem_or_ended {s t : State} (h : NextAnswers s t) : ∃ status value,
    t.rsps = s.rsps ++ [rspWord status value] ∧ (status = .elem ∨ (status = .ended ∧ value = 0)) := by
  cases h with
  | idle => exact ⟨_, _, rfl, .inr ⟨rfl, rfl⟩⟩
  | runEnded => exact ⟨_, _, rfl, .inr ⟨rfl, rfl⟩⟩
  | _ => exact ⟨_, _, rfl, .inl rfl⟩

/-- R67, R72: with a valid pair a start command loads it. -/
theorem startWith_of_validPair {length seed : Word} (h : ValidPair length.toInt seed.toInt) (s : State) :
    startWith length seed s = load length seed s := by
  obtain ⟨-, hload⟩ | ⟨hinvalid, -⟩ := startWith_load_or_raise length seed s
  · exact hload
  · exact absurd h hinvalid

/-- R72: one more than the seed of a valid pair does not wrap. -/
theorem toNat_add_one_of_validPair {length seed : Word} (h : ValidPair length.toInt seed.toInt) :
    (seed + 1).toNat = seed.toNat + 1 := by
  obtain ⟨-, hzero⟩ | ⟨-, hlt⟩ := validPair_toNat h
  · obtain rfl : seed = 0 := BitVec.eq_of_toNat_eq hzero
    rfl
  · exact toNat_add_one_of_lt hlt

/-- R99: the state less 1 is below the length when the state is in range and not 0. -/
theorem toNat_sub_one_lt {c len : Word} (hne : c ≠ 0) (hle : c.toNat ≤ len.toNat) : (c - 1).toNat < len.toNat := by
  bv_omega

/-- R99: every element that NEXT emits is below the length. -/
theorem NextAnswers.elem_lt_len {s t : State} {v : Word} (h : NextAnswers s t) (hinv : StateInv s)
    (htap : s.phase = .run → TapRange (bitWidth s.len) (maskOf s)) (hrsps : t.rsps = s.rsps ++ [rspWord .elem v]) :
    v.toNat < s.len.toNat := by
  have hinv' := stateInv_nextAnswers hinv h
  cases h with
  | idle => cases (append_rspWord_inj.1 hrsps).1
  | firstOfOne hphase hone =>
    obtain ⟨-, rfl⟩ := append_rspWord_inj.1 hrsps
    exact hone ▸ Nat.one_pos
  | firstOfTwo hphase htwo =>
    obtain ⟨-, rfl⟩ := append_rspWord_inj.1 hrsps
    exact htwo ▸ Nat.one_lt_two
  | firstOfMany hphase =>
    obtain ⟨-, rfl⟩ := append_rspWord_inj.1 hrsps
    exact seed_lt_len_of_stateInv hinv (by simp [hphase])
  | second hphase =>
    obtain ⟨-, rfl⟩ := append_rspWord_inj.1 hrsps
    obtain ⟨htwo, -⟩ := (stateInv_second hphase).1 hinv
    exact htwo ▸ Nat.two_pos
  | runEnded => cases (append_rspWord_inj.1 hrsps).1
  | runElem k hphase _ _ _ hle =>
    obtain ⟨-, rfl⟩ := append_rspWord_inj.1 hrsps
    obtain ⟨-, -, -, -, hne, -⟩ :=
      (stateInv_run (s := respond .elem _ { s with cur := orbit (maskOf s) s.cur k }) hphase).1 hinv'
    exact toNat_sub_one_lt (hne (htap hphase)) hle

end Sys2Proof.Machine
end

section
/-! The theorems that settle the statements of the family 30_encoding.md. -/

namespace Sys2Proof.Machine

/-- Settles O1: the fields of the encoded word are those the decoder reads. -/
theorem decodeEncodeRoundTrip : Obligations.DecodeEncodeRoundTrip := decode_encode

/-- Settles O2: each accepting branch of the decoder fixes all three fields of the word. -/
theorem encodeDecodeRoundTrip : Obligations.EncodeDecodeRoundTrip := fun _ _ => encode_of_decode

/-- Settles O4: what a row selects is the encoding of a command of that row, and a word encodes one command only. -/
theorem rowsAreDisjoint : Obligations.RowsAreDisjoint := fun _ _ hr _ hr' => row_eq_of_selects hr hr'

/-- Settles O3: the rows select the encoded words, each the row of its command, and no two rows select one word (O4). -/
theorem decodeAcceptsExactlyTheRows : Obligations.DecodeAcceptsExactlyTheRows := by
  refine fun w => ⟨exists_decode_iff_wellFormedWord, fun i hi r hr => ?_⟩
  have hrow : i.row.selects w = true := encode_of_decode hi ▸ row_selects_encode i
  constructor
  · exact fun hselects => row_eq_of_selects hr (row_mem_rows i) hselects hrow
  · rintro rfl
    exact hrow

/-- Settles O5: the words no row selects are those the decoder rejects, and the step answers a rejected word by
`raiseIllegal`. -/
theorem illegalWordsAnsweredAndNothingWritten : Obligations.IllegalWordsAnsweredAndNothingWritten := by
  intro w
  refine ⟨exists_decode_error_iff.symm.trans exists_decode_error_iff_illegalFields, fun s rest hill hinputs => ?_⟩
  obtain ⟨e, he⟩ := exists_decode_error_iff.2 hill
  rw [step, takeInput_eq_some.2 ⟨rest, hinputs, rfl⟩]
  simp only [he]
  rfl

/-- Settles O9: `startWith_rsps` for the start commands, where the seed 0 of GEN gives no seed error; the cases of `NextAnswers`
for NEXT. -/
theorem eachCommandGivesOneResponse : Obligations.EachCommandGivesOneResponse := by
  intro i s t h
  cases i with
  | gen length =>
    cases h
    obtain ⟨status, value, hrsps, hok | hlength | ⟨-, -, hseed⟩⟩ := startWith_rsps length 0 s
    · exact ⟨status, value, hrsps, .inl hok⟩
    · exact ⟨status, value, hrsps, .inr hlength⟩
    · exact absurd rfl hseed
  | genr length src =>
    cases (exec_genr length src s).symm.trans h
    obtain ⟨status, value, hrsps, hanswer⟩ := startWith_rsps length (drawAnswer src length s) (genrDrawn length src s)
    rw [genrDrawn_rsps] at hrsps
    exact ⟨status, value, hrsps, hanswer.imp_right (Or.imp_right fun ⟨hstatus, hvalue, _⟩ => ⟨hstatus, hvalue⟩)⟩
  | gens length arg =>
    cases h
    obtain ⟨status, value, hrsps, hanswer⟩ := startWith_rsps length arg s
    exact ⟨status, value, hrsps, hanswer.imp_right (Or.imp_right fun ⟨hstatus, hvalue, _⟩ => ⟨hstatus, hvalue⟩)⟩
  | next => exact (nextAnswers_of_exec h).rsps_elem_or_ended

/-- Settles O14: the length of a valid pair is not negative, so GENR draws, and the shared start loads the pair. -/
theorem genrLoadsDrawnSeed : Obligations.GenrLoadsDrawnSeed := by
  rintro length _ src s rfl hvalid
  have hdrawn : genrDrawn length src s = afterDraw src length s := if_neg (by omega)
  refine ⟨?_, toNat_add_one_of_validPair hvalid⟩
  rw [exec_genr, startWith_of_validPair hvalid, hdrawn]
  rfl

/-- Settles O38: under the invariant the seed is below the length, and in phase RUN the stepped state is in range and not 0. -/
theorem elementsAreBelowTheLength : Obligations.ElementsAreBelowTheLength :=
  fun _ _ _ hinv htap hexec hrsps => (nextAnswers_of_exec hexec).elem_lt_len hinv htap hrsps

/-- Settles O8: the word and its fields by the lemmas on `rspWord`, the codes from the table. -/
theorem responseWordLayout : Obligations.ResponseWordLayout :=
  ⟨fun status value => ⟨toNat_rspWord status value, rspStatus_rspWord status value, rspValue_rspWord status value⟩,
    rfl, rfl, rfl, rfl, rfl, rfl, rfl⟩

/-- Settles O19: both are the shared start with seed 0. -/
theorem genEqualsGensZero : Obligations.GenEqualsGensZero :=
  fun length s => (exec_gen length s).trans (exec_gens length 0 s).symm

end Sys2Proof.Machine
end

section
/-! SUPPORT. The family 40_start_commands.md, part 1: the start commands that are refused, the seeds that a conforming source
draws, and the least bit width (40_start_commands.md R66 to R70, R125). -/

namespace Sys2Proof.Machine

section
variable {len seed : Int} (lenWord seedWord : Word)

/-- R66, V1. -/
theorem validate_of_length_neg (h : len < 0) : validate len seed lenWord seedWord = some (.lengthNeg, lenWord) :=
  if_pos h

/-- R66, V2. -/
theorem validate_of_seed_neg (hlen : 0 ≤ len) (hseed : seed < 0) :
    validate len seed lenWord seedWord = some (.seedNeg, seedWord) := by
  rw [validate, if_neg (Int.not_lt.2 hlen), if_pos hseed]

/-- R66, V3. -/
theorem validate_of_length_le_seed (hlen : 0 ≤ len) (hle : len ≤ seed) (hpair : ¬ (seed = 0 ∧ len = 0)) :
    validate len seed lenWord seedWord = some (.seedRange, seedWord) := by
  rw [validate, if_neg (Int.not_lt.2 hlen), if_neg (Int.not_lt.2 (hlen.trans hle)), if_pos ⟨hle, hpair⟩]

end

section
variable {length seed : Word} (s : State)

/-- R65: a start command raises what validation reports. -/
theorem startWith_of_validate_some {reason : Reason} {value : Word}
    (h : validate length.toInt seed.toInt length seed = some (reason, value)) :
    startWith length seed s = raiseInvalidArgument reason value s := by
  rw [startWith, h]

theorem startWith_of_length_neg (h : length.toInt < 0) :
    startWith length seed s = raiseInvalidArgument .lengthNeg length s :=
  startWith_of_validate_some s (validate_of_length_neg length seed h)

theorem startWith_of_seed_neg (hlen : 0 ≤ length.toInt) (hseed : seed.toInt < 0) :
    startWith length seed s = raiseInvalidArgument .seedNeg seed s :=
  startWith_of_validate_some s (validate_of_seed_neg length seed hlen hseed)

theorem startWith_of_length_le_seed (hlen : 0 ≤ length.toInt) (hle : length.toInt ≤ seed.toInt)
    (hpair : ¬ (seed.toInt = 0 ∧ length.toInt = 0)) :
    startWith length seed s = raiseInvalidArgument .seedRange seed s :=
  startWith_of_validate_some s (validate_of_length_le_seed length seed hlen hle hpair)

/-- R75: GENR with a negative length does not draw … -/
theorem genrDrawn_of_length_neg (h : length.toInt < 0) (src : Source) : genrDrawn length src s = s := if_pos h

/-- … and with any other length it does. -/
theorem genrDrawn_of_length_nonneg (h : 0 ≤ length.toInt) (src : Source) :
    genrDrawn length src s = afterDraw src length s := if_neg (Int.not_lt.2 h)

/-- R67, R73: the seed 0 goes with every length that is not negative. -/
theorem validPair_zero (h : 0 ≤ length.toInt) : ValidPair length.toInt (0 : Word).toInt := by
  rw [BitVec.ofNat_eq_ofNat, BitVec.toInt_zero]
  omega

/-- R125: what a source that keeps its contract answers goes with the length it was asked for. -/
theorem validPair_of_rngOK {r : Word} (hlen : 0 ≤ length.toInt) (h : RngOK length r) :
    ValidPair length.toInt r.toInt := by
  obtain ⟨hpos, hzero⟩ := h
  obtain hlength | hlength : length.toInt = 0 ∨ 1 ≤ length.toInt := by omega
  · exact .inl ⟨hlength, by rw [hzero hlength]; rfl⟩
  · exact .inr ⟨hlength, hpos hlength⟩

end

/-- R70: as the bit width is the least, one bit less does not hold a length of 2 or more. -/
theorem two_pow_bitWidth_sub_one_le {len : Word} (h : 2 ≤ len.toNat) : 2 ^ (bitWidth len - 1) ≤ len.toNat := by
  by_contra hlt
  have hwidth := two_le_bitWidth len
  obtain htwo | hthree : bitWidth len = 2 ∨ 2 ≤ bitWidth len - 1 := by omega
  · rw [htwo] at hlt
    omega
  · have := bitWidth_le_of_lt_two_pow hthree (Nat.lt_of_not_le hlt)
    omega

end Sys2Proof.Machine
end

section
/-! SUPPORT. The family 40_start_commands.md, part 2: what came before a start command stays in front of what it and the pulls
after it answer, and has no other influence (40_start_commands.md R77, R79). -/

namespace Sys2Proof.Machine

/-- The state `s` with the channels of `h`: what `h` had answered stands before the answers of `s`. -/
def withHistory (h s : State) : State :=
  { s with inputs := h.inputs, rsps := h.rsps ++ s.rsps, answers := h.answers, requests := h.requests }

section
variable (h s : State)

@[simp] theorem withHistory_phase : (withHistory h s).phase = s.phase := rfl
@[simp] theorem withHistory_len : (withHistory h s).len = s.len := rfl
@[simp] theorem withHistory_cur : (withHistory h s).cur = s.cur := rfl
@[simp] theorem withHistory_rsps : (withHistory h s).rsps = h.rsps ++ s.rsps := rfl
@[simp] theorem maskOf_withHistory : maskOf (withHistory h s) = maskOf s := rfl
@[simp] theorem startOf_withHistory : startOf (withHistory h s) = startOf s := rfl

theorem respond_withHistory (status : Status) (value : Word) :
    respond status value (withHistory h s) = withHistory h (respond status value s) := by
  simp [respond, withHistory]

/-- R72: a load leaves the state that it leaves right after reset with the same ROM, with the history in front. -/
theorem load_eq_withHistory (length seed : Word) :
    load length seed s = withHistory s (load length seed (State.reset.withTaps s.taps)) := rfl

theorem emitFirst_withHistory : emitFirst (withHistory h s) = withHistory h (emitFirst s) := by
  unfold emitFirst
  rw [withHistory_len]
  split
  · exact respond_withHistory h { s with phase := .idle } .elem 0
  · split
    · exact respond_withHistory h { s with phase := .second } .elem 1
    · exact respond_withHistory h { s with phase := .run } .elem s.seed

theorem emitRun_withHistory :
    emitRun (withHistory h s) = mapNext (withHistory h) (emitRun s) := by
  unfold emitRun
  rw [maskOf_withHistory, startOf_withHistory, withHistory_len, withHistory_cur]
  cases discardLoop (maskOf s) (startOf s) s.len loopBound s.cur with
  | none => rfl
  | some exit =>
    cases exit with
    | wrap c => exact congrArg _ (respond_withHistory h { s with cur := c, phase := .idle } .ended 0)
    | emit c => exact congrArg _ (respond_withHistory h { s with cur := c } .elem (c - 1))

/-- NEXT does not look at the history. -/
theorem exec_next_withHistory :
    exec .next (withHistory h s) = mapNext (withHistory h) (exec .next s) := by
  cases hphase : s.phase with
  | idle =>
    rw [exec_next_of_idle hphase, exec_next_of_idle (s := withHistory h s) hphase, respond_withHistory, mapNext]
  | first =>
    rw [exec_next_of_first hphase, exec_next_of_first (s := withHistory h s) hphase, emitFirst_withHistory,
      mapNext]
  | second =>
    rw [exec_next_of_second hphase, exec_next_of_second (s := withHistory h s) hphase]
    exact congrArg _ (respond_withHistory h { s with phase := .idle } .elem 0)
  | run => rw [exec_next_of_run hphase, exec_next_of_run (s := withHistory h s) hphase, emitRun_withHistory]

/-- Nor does any number of pulls. -/
theorem pulls_withHistory (n : Nat) :
    pulls n (withHistory h s) = mapNext (withHistory h) (pulls n s) := by
  induction n generalizing s with
  | zero => rfl
  | succ n ih =>
    rw [pulls, pulls, exec_next_withHistory]
    cases exec .next s with
    | next t => exact ih t
    | fault r => rfl
    | refused r => rfl

end

/-- R91: in phase IDLE every pull answers END. -/
theorem pulls_of_idle {s : State} (hphase : s.phase = .idle) (n : Nat) :
    ∃ u, pulls n s = .next u ∧ u.rsps = s.rsps ++ List.replicate n (rspWord .ended 0) := by
  induction n generalizing s with
  | zero => exact ⟨s, rfl, by simp⟩
  | succ n ih =>
    obtain ⟨u, hpulls, hrsps⟩ := ih (s := respond .ended 0 s) hphase
    refine ⟨u, by rw [pulls, exec_next_of_idle hphase]; exact hpulls, ?_⟩
    rw [hrsps, respond_rsps, List.append_assoc, List.singleton_append, List.replicate_succ]

/-- An outcome changed by `f` is a next state only when it was one before. -/
theorem exists_of_mapNext_eq_next {f : State → State} {o : Host.Outcome State Fault Refusal} {u : State}
    (h : mapNext f o = .next u) : ∃ t, o = .next t ∧ f t = u := by
  cases o with
  | next t =>
    cases h
    exact ⟨t, rfl, rfl⟩
  | fault r => cases h
  | refused r => cases h

/-- R77, R79: the answers of a shared start and of the pulls after it depend on the ROM of the state before only. After an error
all pulls answer END; a load leaves the same state but for the history. -/
theorem pulls_startWith_of_taps_eq {length seed : Word} {s₁ s₂ u₁ : State} {n : Nat} (htaps : s₁.taps = s₂.taps)
    (hpulls : pulls n (startWith length seed s₁) = .next u₁) :
    ∃ u₂ out, pulls n (startWith length seed s₂) = .next u₂ ∧ u₁.rsps = s₁.rsps ++ out ∧ u₂.rsps = s₂.rsps ++ out := by
  cases hvalidate : validate length.toInt seed.toInt length seed with
  | some report =>
    obtain ⟨reason, value⟩ := report
    rw [startWith_of_validate_some _ hvalidate] at hpulls ⊢
    have ended (s : State) := pulls_of_idle (raiseInvalidArgument_phase reason value s) n
    obtain ⟨v₁, hv₁, hrsps₁⟩ := ended s₁
    obtain ⟨u₂, hu₂, hrsps₂⟩ := ended s₂
    cases hv₁.symm.trans hpulls
    rw [raiseInvalidArgument_rsps, List.append_assoc] at hrsps₁ hrsps₂
    exact ⟨u₂, _, hu₂, hrsps₁, hrsps₂⟩
  | none =>
    have hvalid := validate_eq_none_iff.1 hvalidate
    rw [startWith_of_validPair hvalid, load_eq_withHistory, pulls_withHistory] at hpulls ⊢
    obtain ⟨u, hu, rfl⟩ := exists_of_mapNext_eq_next hpulls
    exact ⟨withHistory s₂ u, u.rsps, by rw [← htaps, hu, mapNext], rfl, rfl⟩

end Sys2Proof.Machine
end

section
/-! The theorems that settle the statements of the family 40_start_commands.md. -/

namespace Sys2Proof.Machine

/-- Settles O13: validation passes the pair, so it is loaded, and its seed is not the largest word. -/
theorem gensLoadsExplicitSeed : Obligations.GensLoadsExplicitSeed :=
  fun _ _ s hvalid => ⟨exec_gens_of_validPair hvalid s, toNat_add_one_of_validPair hvalid⟩

/-- Settles O16: the three tests of validation, in their order. -/
theorem gensRaisesInvalidArgument : Obligations.GensRaisesInvalidArgument := by
  intro length arg s
  rw [exec_gens]
  refine ⟨fun hneg => ?_, fun hlen hseed => ?_, fun hlen hle hpair => ?_⟩
  · rw [startWith_of_length_neg s hneg]
    rfl
  · rw [startWith_of_seed_neg s hlen hseed]
    rfl
  · rw [startWith_of_length_le_seed s hlen hle hpair]
    rfl

/-- Settles O17: a negative length fails V1 before the draw; the other two tests see the answer of the draw. -/
theorem genrRaisesInvalidArgument : Obligations.GenrRaisesInvalidArgument := by
  rintro length _ src s rfl
  rw [exec_genr]
  refine ⟨fun hneg => ?_, fun hlen hseed => ?_, fun hlen hle hpair => ?_⟩
  · rw [startWith_of_length_neg _ hneg, genrDrawn_of_length_neg s hneg]
    rfl
  · rw [startWith_of_seed_neg _ hlen hseed, genrDrawn_of_length_nonneg s hlen]
    rfl
  · rw [startWith_of_length_le_seed _ hlen hle hpair, genrDrawn_of_length_nonneg s hlen]
    rfl

/-- Settles O18: the answer makes a valid pair with the length, and a valid pair is loaded. -/
theorem conformingSourceAlwaysAccepted : Obligations.ConformingSourceAlwaysAccepted := by
  intro length src s hlen hrng
  refine ⟨_, exec_genr length src s, ?_⟩
  rw [startWith_of_validPair (validPair_of_rngOK hlen hrng), load_rsps, genrDrawn_rsps]

/-- Settles O21: every start command is the shared start, whose answers depend on its operands, the drawn seed and the ROM. -/
theorem answersDependOnOperandsAndRomOnly : Obligations.AnswersDependOnOperandsAndRomOnly := by
  intro i s₁ s₂ t₁ t₂ u₁ n hi htaps hdraw h₁ h₂ hpulls
  cases i with
  | gen length =>
    cases h₁
    cases h₂
    exact pulls_startWith_of_taps_eq htaps hpulls
  | genr length src =>
    cases (exec_genr length src s₁).symm.trans h₁
    cases (exec_genr length src s₂).symm.trans h₂
    rw [← hdraw length src rfl]
    have htaps' : (genrDrawn length src s₁).taps = (genrDrawn length src s₂).taps := by simp [htaps]
    simpa using pulls_startWith_of_taps_eq htaps' hpulls
  | gens length arg =>
    cases h₁
    cases h₂
    exact pulls_startWith_of_taps_eq htaps hpulls
  | next => exact absurd rfl hi

/-- Settles O22: the length is below 2^B, and a width of 2 or more that holds it is no less than B. -/
theorem bitWidthIsLeast : Obligations.BitWidthIsLeast := by
  intro n
  refine ⟨two_le_bitWidth n, Nat.le_sub_one_of_lt (toNat_lt_two_pow_bitWidth n), fun b hb hle => ?_, rfl,
    two_pow_bitWidth_sub_one_le, bitWidth_le_of_lt_two_pow (by decide), by decide⟩
  exact bitWidth_le_of_lt_two_pow hb (Nat.lt_of_le_sub_one (Nat.two_pow_pos b) hle)

/-- Settles O10: the valid pairs of validation. -/
theorem validPairsAreExactlyThese : Obligations.ValidPairsAreExactlyThese := fun _ _ _ _ => validate_eq_none_iff

/-- Settles O11: a row is one of the three tests, or a valid pair. -/
theorem validationReportsFirstFailingTest : Obligations.ValidationReportsFirstFailingTest := by
  intro len seed lenWord seedWord
  refine ⟨validate_of_length_neg lenWord seedWord, validate_of_seed_neg lenWord seedWord, fun hlen hseed => ?_,
    fun hlen hseed => ?_, fun hlen hseed hlt => ?_, fun hlen hle => ?_⟩
  · exact validate_of_validPair (.inl ⟨hlen, hseed⟩) lenWord seedWord
  · exact validate_of_length_le_seed lenWord seedWord (by omega) (by omega) (by omega)
  · exact validate_of_validPair (.inr ⟨hlen, hseed, hlt⟩) lenWord seedWord
  · exact validate_of_length_le_seed lenWord seedWord (by omega) hle (by omega)

/-- Settles O12: the seed 0 makes a valid pair with the length. -/
theorem genLoadsSeedZero : Obligations.GenLoadsSeedZero := by
  intro length s hlen
  rw [exec_gen, startWith_of_validPair (validPair_zero hlen)]
  rfl

/-- Settles O15: a negative length fails V1. -/
theorem genRaisesOnNegativeLength : Obligations.GenRaisesOnNegativeLength := by
  intro length s hneg
  rw [exec_gen, startWith_of_length_neg s hneg]
  rfl

end Sys2Proof.Machine
end

section
/-! SUPPORT. The family 41_next_command.md, part 1: the step by the low bit, its inverse, and the cycles of the register
(41_next_command.md R95, R102, R106, 20_memory.md R37). -/

namespace Sys2Proof.Machine

open Function

theorem one_le_toNat_iff {c : Word} : 1 ≤ c.toNat ↔ c ≠ 0 :=
  Nat.one_le_iff_ne_zero.trans (BitVec.toNat_ne (y := 0)).symm

/-- R96: with the low bit 0 the mask is not fed back … -/
theorem feedbackSelect_of_lsb_false {c : Word} (h : lsb c = false) : feedbackSelect c = 0x00000000#32 := by
  have hlow : c.getLsbD 0 = false := h
  rw [feedbackSelect_eq, hlow]
  rfl

/-- … and with the low bit 1 it is fed back whole. -/
theorem feedbackSelect_of_lsb_true {c : Word} (h : lsb c = true) : feedbackSelect c = 0xFFFFFFFF#32 := by
  have hlow : c.getLsbD 0 = true := h
  rw [feedbackSelect_eq, hlow]
  rfl

theorem lfsrStep_of_lsb_false {c : Word} (h : lsb c = false) (m : Word) : lfsrStep c m = c >>> 1 := by
  simp [lfsrStep, feedbackSelect_of_lsb_false h]

theorem lfsrStep_of_lsb_true {c : Word} (h : lsb c = true) (m : Word) : lfsrStep c m = c >>> 1 ^^^ m := by
  have hmask : m &&& 0xFFFFFFFF#32 = m := BitVec.and_allOnes
  rw [lfsrStep, feedbackSelect_of_lsb_true h, hmask]

/-- R38: the step is linear. -/
theorem lfsrStep_xor (c d m : Word) : lfsrStep (c ^^^ d) m = lfsrStep c m ^^^ lfsrStep d m := by
  refine BitVec.eq_of_toNat_eq ?_
  simp only [BitVec.toNat_xor, toNat_lfsrStep, stepNat_xor]

/-- R102: under TapRange the step is injective on the b-bit states: their XOR, if it is not 0, steps to the XOR of the steps,
which is then not 0 either. -/
theorem lfsrStep_injOn {b : Nat} {m : Word} (h : TapRange b m) {c d : Word} (hc : c.toNat < 2 ^ b) (hd : d.toNat < 2 ^ b)
    (heq : lfsrStep c m = lfsrStep d m) : c = d := by
  by_contra hne
  have hlt : (c ^^^ d).toNat < 2 ^ b := by
    rw [BitVec.toNat_xor]
    exact Nat.xor_lt_two_pow hc hd
  refine lfsrStep_ne_zero h (fun hzero => hne (BitVec.xor_eq_zero_iff.1 hzero)) hlt ?_
  rw [lfsrStep_xor, heq, BitVec.xor_self]
  rfl

/-- R102, along the orbit. -/
theorem orbit_injOn {b : Nat} {m : Word} (h : TapRange b m) {c d : Word} (hc : c.toNat < 2 ^ b) (hd : d.toNat < 2 ^ b)
    {k : Nat} (heq : orbit m c k = orbit m d k) : c = d := by
  induction k with
  | zero => exact heq
  | succ k ih => exact ih (lfsrStep_injOn h (orbit_lt_two_pow hc h.1 k) (orbit_lt_two_pow hd h.1 k) heq)

/-- A b-bit state with its top bit clear has one bit less. -/
theorem toNat_lt_half_of_top_false {b : Nat} {c : Word} (hc : c.toNat < 2 ^ b) (htop : c.getLsbD (b - 1) = false) :
    c.toNat < 2 ^ (b - 1) := by
  refine Nat.lt_pow_two_of_testBit _ fun i hi => ?_
  obtain rfl | hlt : i = b - 1 ∨ b ≤ i := by omega
  · exact htop
  · exact Nat.testBit_lt_two_pow (hc.trans_le (Nat.pow_le_pow_right (by decide) hlt))

/-- A state with room at the top is doubled by a shift, without a wrap. -/
theorem toNat_shiftLeft_one {b : Nat} {c : Word} (hb : b ≤ 32) (hb0 : b ≠ 0) (hc : c.toNat < 2 ^ (b - 1)) :
    (c <<< 1).toNat = 2 * c.toNat ∧ 2 * c.toNat + 1 < 2 ^ b := by
  have hdouble : 2 ^ b = 2 * 2 ^ (b - 1) := by rw [← Nat.pow_succ', Nat.succ_eq_add_one, Nat.sub_add_cancel (by omega)]
  have hword : 2 ^ b ≤ 2 ^ 32 := Nat.pow_le_pow_right (by decide) hb
  rw [BitVec.toNat_shiftLeft, Nat.shiftLeft_eq]
  omega

/-- R37: the source of a state with its top bit clear is its double. -/
theorem lfsrStep_source_of_top_false {b : Nat} {c m : Word} (h : TapRange b m) (hc : c.toNat < 2 ^ b)
    (htop : c.getLsbD (b - 1) = false) : (c <<< 1).toNat < 2 ^ b ∧ lfsrStep (c <<< 1) m = c := by
  obtain ⟨hdouble, hlt⟩ :=
    toNat_shiftLeft_one (le_of_tapRange h) (ne_zero_of_tapRange h) (toNat_lt_half_of_top_false hc htop)
  refine ⟨by omega, BitVec.eq_of_toNat_eq ?_⟩
  rw [toNat_lfsrStep, hdouble, stepNat_two_mul]

/-- R37: the source of a state with its top bit set: the feedback is taken off, and the bit that was shifted out is 1. -/
theorem lfsrStep_source_of_top_true {b : Nat} {c m : Word} (h : TapRange b m) (hc : c.toNat < 2 ^ b)
    (htop : c.getLsbD (b - 1) = true) :
    (((c ^^^ m) <<< 1) ||| 1).toNat < 2 ^ b ∧ lfsrStep (((c ^^^ m) <<< 1) ||| 1) m = c := by
  have hlt : (c ^^^ m).toNat < 2 ^ b := by
    rw [BitVec.toNat_xor]
    exact Nat.xor_lt_two_pow hc h.1
  have hclear : (c ^^^ m).getLsbD (b - 1) = false := by rw [BitVec.getLsbD_xor, htop, h.2, Bool.xor_self]
  obtain ⟨hdouble, hsource⟩ :=
    toNat_shiftLeft_one (le_of_tapRange h) (ne_zero_of_tapRange h) (toNat_lt_half_of_top_false hlt hclear)
  have hodd : (((c ^^^ m) <<< 1) ||| 1).toNat = 2 * (c ^^^ m).toNat + 1 := by
    rw [BitVec.toNat_or, hdouble]
    exact (Nat.two_pow_add_eq_or_of_lt (i := 1) (by decide) _).symm
  refine ⟨by omega, BitVec.eq_of_toNat_eq ?_⟩
  rw [toNat_lfsrStep, hodd, stepNat, BitVec.toNat_xor, Nat.mul_add_div (by decide), Nat.mul_add_mod]
  simp

/-- More states of an orbit than there are values for them: two are equal. -/
theorem exists_orbit_eq_of_lt {m c : Word} {lo n : Nat}
    (h : ∀ k, k ≤ n → lo ≤ (orbit m c k).toNat ∧ (orbit m c k).toNat < lo + n) :
    ∃ i j, i < j ∧ j ≤ n ∧ orbit m c i = orbit m c j := by
  have hcard : (Finset.Ico lo (lo + n)).card < (Finset.range (n + 1)).card := by simp
  have hmaps : ∀ k ∈ Finset.range (n + 1), (orbit m c k).toNat ∈ Finset.Ico lo (lo + n) := fun k hk =>
    Finset.mem_Ico.2 (h k (Nat.le_of_lt_succ (Finset.mem_range.1 hk)))
  obtain ⟨i, hi, j, hj, hne, heq⟩ := Finset.exists_ne_map_eq_of_card_lt_of_maps_to hcard hmaps
  have hij := BitVec.eq_of_toNat_eq heq
  rw [Finset.mem_range] at hi hj
  obtain hlt | hgt := Nat.lt_or_gt_of_ne hne
  · exact ⟨i, j, hlt, by omega, hij⟩
  · exact ⟨j, i, hgt, by omega, hij.symm⟩

/-- R102: equal states of an orbit under TapRange give a return of its first state. -/
theorem orbit_sub_eq_self {b : Nat} {m c : Word} (h : TapRange b m) (hc : c.toNat < 2 ^ b) {i j : Nat} (hij : i ≤ j)
    (heq : orbit m c i = orbit m c j) : orbit m c (j - i) = c := by
  refine (orbit_injOn h hc (orbit_lt_two_pow hc h.1 (j - i)) (k := i) ?_).symm
  rw [← orbit_add, Nat.sub_add_cancel hij, heq]

/-- R102: every b-bit state recurs within `2^b - 1` steps. -/
theorem exists_orbit_eq_self {b : Nat} {m c : Word} (h : TapRange b m) (hc : c.toNat < 2 ^ b) :
    ∃ k, 1 ≤ k ∧ k ≤ 2 ^ b - 1 ∧ orbit m c k = c := by
  have hpos : 1 ≤ 2 ^ b - 1 := Nat.sub_pos_of_lt (Nat.one_lt_two_pow (ne_zero_of_tapRange h))
  by_cases hzero : c = 0
  · exact ⟨1, le_rfl, hpos, by rw [hzero, orbit_of_zero]⟩
  obtain ⟨i, j, hij, hj, heq⟩ := exists_orbit_eq_of_lt (m := m) (c := c) (lo := 1) (n := 2 ^ b - 1) fun k _ =>
    ⟨one_le_toNat_iff.2 (orbit_ne_zero_of_tapRange h hzero hc k), by
      have := orbit_lt_two_pow hc h.1 k
      omega⟩
  exact ⟨j - i, by omega, by omega, orbit_sub_eq_self h hc hij.le heq⟩

/-- R102: the period of a b-bit state is positive and at most `2^b - 1`. -/
theorem minimalPeriod_of_tapRange {b : Nat} {m c : Word} (h : TapRange b m) (hc : c.toNat < 2 ^ b) :
    1 ≤ minimalPeriod (stepBy m) c ∧ minimalPeriod (stepBy m) c ≤ 2 ^ b - 1 := by
  obtain ⟨k, h1, hk, hreturn⟩ := exists_orbit_eq_self h hc
  have hperiodic : IsPeriodicPt (stepBy m) k c := (orbit_eq_iterate m c k).symm.trans hreturn
  exact ⟨hperiodic.minimalPeriod_pos h1, (hperiodic.minimalPeriod_le h1).trans hk⟩

theorem orbit_minimalPeriod (m c : Word) : orbit m c (minimalPeriod (stepBy m) c) = c := by
  rw [orbit_eq_iterate, iterate_minimalPeriod]

theorem orbit_ne_self_of_lt_minimalPeriod {m c : Word} {k : Nat} (h1 : 1 ≤ k) (hk : k < minimalPeriod (stepBy m) c) :
    orbit m c k ≠ c := by
  rw [orbit_eq_iterate]
  exact not_isPeriodicPt_of_pos_of_lt_minimalPeriod (Nat.ne_of_gt h1) hk

end Sys2Proof.Machine
end

section
/-! SUPPORT. The family 41_next_command.md, part 2: the first exit of NEXT's loop, which has no cap, and that the loop exits from
every state that meets the invariant (41_next_command.md R94, R103, R112). -/

namespace Sys2Proof.Machine

open Function

/-- Every state of an orbit stands among its first `2^32`: the least place of a state is below this number, since of so many
earlier places and its own two would hold equal states, and it would stand at an earlier one. -/
theorem exists_orbit_eq_lt_loopBound (m c : Word) (n : Nat) : ∃ j, j < loopBound ∧ orbit m c j = orbit m c n := by
  induction n using Nat.strong_induction_on with
  | _ n ih =>
    by_cases hn : n < loopBound
    · exact ⟨n, hn, rfl⟩
    obtain ⟨i, j, hij, hj, heq⟩ := exists_orbit_eq_of_lt (m := m) (c := c) (lo := 0) (n := loopBound) fun k _ =>
      ⟨Nat.zero_le _, by rw [Nat.zero_add]; exact (orbit m c k).isLt⟩
    have hearlier : orbit m c (i + (n - j)) = orbit m c n := by
      rw [orbit_add, heq, ← orbit_add, Nat.add_sub_cancel' (by omega)]
    obtain ⟨l, hl, hln⟩ := ih (i + (n - j)) (by omega)
    exact ⟨l, hl, hln.trans hearlier⟩

/-- R94: the loop's bound is no cap: a loop that passes over that many states passes over all. -/
theorem discarded_of_le_loopBound {m start len c : Word} (h : ∀ j, 1 ≤ j → j ≤ loopBound → Discarded m start len c j)
    {j : Nat} (hj : 1 ≤ j) : Discarded m start len c j := by
  obtain ⟨l, hl, heq⟩ := exists_orbit_eq_lt_loopBound m (orbit m c 1) (j - 1)
  rw [← orbit_add, ← orbit_add, Nat.add_sub_cancel' hj] at heq
  rw [Discarded, ← heq]
  exact h (1 + l) (by omega) (by omega)

/-- R94: the state `k` steps after CUR is the first that NEXT does not pass over. -/
def FirstExit (s : State) (k : Nat) : Prop :=
  1 ≤ k ∧ (∀ j, 1 ≤ j → j < k → Discarded (maskOf s) (startOf s) s.len s.cur j) ∧
    ¬ Discarded (maskOf s) (startOf s) s.len s.cur k

theorem FirstExit.unique {s : State} {k l : Nat} (hk : FirstExit s k) (hl : FirstExit s l) : k = l := by
  obtain ⟨hk1, hkpassed, hkexit⟩ := hk
  obtain ⟨hl1, hlpassed, hlexit⟩ := hl
  obtain hlt | heq | hgt := Nat.lt_trichotomy k l
  · exact absurd (hlpassed k hk1 hlt) hkexit
  · exact heq
  · exact absurd (hkpassed l hl1 hgt) hlexit

/-- R94: NEXT in phase RUN takes the first exit, however far away it is, or the loop has none. -/
theorem emitRun_endless_or_exit (s : State) :
    (emitRun s = .fault .discardLoopEndless ∧ ∀ j, 1 ≤ j → Discarded (maskOf s) (startOf s) s.len s.cur j) ∨
    ∃ k, FirstExit s k ∧
      ((orbit (maskOf s) s.cur k = startOf s ∧
          emitRun s = .next (respond .ended 0 { s with cur := startOf s, phase := .idle })) ∨
       (orbit (maskOf s) s.cur k ≠ startOf s ∧
          emitRun s = .next (respond .elem (orbit (maskOf s) s.cur k - 1)
            { s with cur := orbit (maskOf s) s.cur k }))) := by
  obtain ⟨hfault, hall⟩ | ⟨k, hk, -, hpassed, ⟨hstart, hnext⟩ | ⟨hne, hle, hnext⟩⟩ := emitRun_cases s
  · exact .inl ⟨hfault, fun j hj => discarded_of_le_loopBound hall hj⟩
  · exact .inr ⟨k, ⟨hk, hpassed, fun h => h.1 hstart⟩, .inl ⟨hstart, hnext⟩⟩
  · exact .inr ⟨k, ⟨hk, hpassed, fun h => Nat.not_lt.2 hle h.2⟩, .inr ⟨hne, hnext⟩⟩

/-- R94, steps 5 and 7, at the first exit. -/
theorem emitRun_of_firstExit {s : State} {k : Nat} (h : FirstExit s k) :
    (orbit (maskOf s) s.cur k = startOf s ∧
      emitRun s = .next (respond .ended 0 { s with cur := startOf s, phase := .idle })) ∨
    (orbit (maskOf s) s.cur k ≠ startOf s ∧
      emitRun s = .next (respond .elem (orbit (maskOf s) s.cur k - 1) { s with cur := orbit (maskOf s) s.cur k })) := by
  obtain ⟨-, hall⟩ | ⟨l, hl, hexit⟩ := emitRun_endless_or_exit s
  · obtain ⟨hk, -, hexit⟩ := h
    exact absurd (hall k hk) hexit
  · rwa [h.unique hl]

/-- NEXT in phase RUN answers when some state after CUR is not passed over. -/
theorem exists_firstExit {s : State} {k : Nat} (hk : 1 ≤ k)
    (hexit : ¬ Discarded (maskOf s) (startOf s) s.len s.cur k) : ∃ l, FirstExit s l := by
  obtain ⟨-, hall⟩ | ⟨l, hl, -⟩ := emitRun_endless_or_exit s
  · exact absurd (hall k hk) hexit
  · exact ⟨l, hl⟩

/-- R17: under the invariant START of a live sequence is not 0 and is in range (O55). -/
theorem startOf_of_stateInv {s : State} (hinv : StateInv s) (hlive : s.phase ≠ .idle) :
    startOf s ≠ 0 ∧ (startOf s).toNat ≤ s.len.toNat := by
  obtain ⟨-, hpos, hle⟩ := startLiesWithinTheLength s hinv hlive
  exact ⟨one_le_toNat_iff.1 hpos, hle⟩

/-- R112, the rows of its table: a word that is not 0 lies within the width of the mask, or above all bits of the mask. -/
theorem tapRange_or_above (m : Word) {a : Word} (ha : a ≠ 0) :
    ∃ w, (TapRange w m ∧ a.toNat < 2 ^ w) ∨ (m.toNat < 2 ^ w ∧ 2 ^ w ≤ a.toNat) := by
  by_cases hm : m.toNat = 0
  · exact ⟨0, .inr ⟨by omega, one_le_toNat_iff.2 ha⟩⟩
  refine ⟨m.toNat.log2 + 1, ?_⟩
  have hlt : m.toNat < 2 ^ (m.toNat.log2 + 1) := Nat.lt_log2_self
  obtain hwithin | habove := Nat.lt_or_ge a.toNat (2 ^ (m.toNat.log2 + 1))
  · exact .inl ⟨⟨hlt, Nat.testBit_log2 hm⟩, hwithin⟩
  · exact .inr ⟨hlt, habove⟩

/-- R112, first row: within the mask's width START's cycle leads from CUR back to START, `d + 1` steps on. -/
theorem exists_start_of_within {s : State} {w : Nat} (hreached : ReachedFromStart s) (htap : TapRange w (maskOf s))
    (hwithin : (startOf s).toNat < 2 ^ w) :
    ∃ d, d + 1 ≤ 2 ^ w - 1 ∧ orbit (maskOf s) s.cur (d + 1) = startOf s ∧
      ∀ j, 1 ≤ j → j ≤ d → orbit (maskOf s) s.cur j ≠ startOf s := by
  obtain ⟨k, hk, hbefore⟩ := hreached
  obtain ⟨hpos, hle⟩ := minimalPeriod_of_tapRange htap hwithin
  have hperiod := orbit_minimalPeriod (maskOf s) (startOf s)
  have hleast {j : Nat} := orbit_ne_self_of_lt_minimalPeriod (m := maskOf s) (c := startOf s) (k := j)
  generalize minimalPeriod (stepBy (maskOf s)) (startOf s) = p at hpos hle hperiod hleast
  have hkp : k < p := Nat.lt_of_not_le fun hpk => hbefore p hpos hpk hperiod
  have hshift : ∀ j, orbit (maskOf s) s.cur j = orbit (maskOf s) (startOf s) (k + j) := fun j => by rw [orbit_add, hk]
  refine ⟨p - k - 1, by omega, ?_, fun j h1 h2 => ?_⟩
  · rw [hshift, show k + (p - k - 1 + 1) = p by omega, hperiod]
  · rw [hshift]
    exact hleast (by omega) (by omega)

/-- R112, second and third row: a step from START or below, where START lies above the mask, leads below START. The bits above
the mask are shifted down, and nothing is fed back to them. -/
theorem lfsrStep_lt_of_above {w : Nat} {a c m : Word} (hm : m.toNat < 2 ^ w) (ha : 2 ^ w ≤ a.toNat)
    (hc : c.toNat ≤ a.toNat) : (lfsrStep c m).toNat < a.toNat := by
  obtain hlow | hhigh := Nat.lt_or_ge c.toNat (2 ^ w)
  · exact (lfsrStep_lt_two_pow hlow hm).trans_le ha
  refine Nat.lt_of_lt_of_le ?_ hc
  have hfed : m.toNat * (c.toNat % 2) < 2 ^ w :=
    (Nat.mul_le_mul_left m.toNat (Nat.le_of_lt_succ (Nat.mod_lt _ Nat.two_pos))).trans_lt (by simpa using hm)
  have hdown : stepNat m.toNat c.toNat / 2 ^ w = c.toNat / 2 ^ w / 2 := by
    rw [stepNat, Nat.xor_div_two_pow, Nat.div_eq_of_lt hfed, Nat.xor_zero, Nat.div_div_eq_div_mul, Nat.mul_comm,
      Nat.div_div_eq_div_mul]
  have hpos : 0 < c.toNat / 2 ^ w := Nat.div_pos hhigh (Nat.two_pow_pos w)
  rw [toNat_lfsrStep]
  exact Nat.lt_of_div_lt_div (c := 2 ^ w) (by rw [hdown]; exact Nat.div_lt_self hpos (by decide))

/-- R112, second and third row, along the orbit. -/
theorem orbit_lt_of_above {w : Nat} {a c m : Word} (hm : m.toNat < 2 ^ w) (ha : 2 ^ w ≤ a.toNat)
    (hc : c.toNat ≤ a.toNat) {k : Nat} (hk : 1 ≤ k) : (orbit m c k).toNat < a.toNat := by
  induction k, hk using Nat.le_induction with
  | base => exact lfsrStep_lt_of_above hm ha hc
  | succ k _ ih => exact lfsrStep_lt_of_above hm ha ih.le

/-- R112, second and third row: CUR, reached from START, lies no higher than START. -/
theorem cur_le_start_of_above {s : State} {w : Nat} (hreached : ReachedFromStart s) (hm : (maskOf s).toNat < 2 ^ w)
    (habove : 2 ^ w ≤ (startOf s).toNat) : s.cur.toNat ≤ (startOf s).toNat := by
  obtain ⟨k, hk, -⟩ := hreached
  rw [← hk]
  cases k with
  | zero => exact le_rfl
  | succ k => exact (orbit_lt_of_above hm habove le_rfl (Nat.le_add_left 1 k)).le

/-- R112: the loop exits from every state in phase RUN that meets the invariant: at START, or, where START lies above the mask,
at the first step. -/
theorem exists_firstExit_of_stateInv {s : State} (hinv : StateInv s) (hphase : s.phase = .run) : ∃ k, FirstExit s k := by
  obtain ⟨hne, hle⟩ := startOf_of_stateInv hinv (by simp [hphase])
  obtain ⟨-, -, -, -, -, -, hreached⟩ := (stateInv_run hphase).1 hinv
  obtain ⟨w, ⟨htap, hwithin⟩ | ⟨hm, habove⟩⟩ := tapRange_or_above (maskOf s) hne
  · obtain ⟨d, -, hstart, -⟩ := exists_start_of_within hreached htap hwithin
    exact exists_firstExit (Nat.le_add_left 1 d) fun h => h.1 hstart
  · have hlt := orbit_lt_of_above hm habove (cur_le_start_of_above hreached hm habove) le_rfl
    exact exists_firstExit le_rfl fun h => Nat.not_lt.2 (hlt.le.trans hle) h.2

/-- R112, R117: NEXT answers from every state that meets the invariant. -/
theorem exec_next_answers_of_stateInv {s : State} (hinv : StateInv s) : ∃ t, exec .next s = .next t := by
  cases hphase : s.phase with
  | idle => exact ⟨_, exec_next_of_idle hphase⟩
  | first => exact ⟨_, exec_next_of_first hphase⟩
  | second => exact ⟨_, exec_next_of_second hphase⟩
  | run =>
    rw [exec_next_of_run hphase]
    obtain ⟨k, hk⟩ := exists_firstExit_of_stateInv hinv hphase
    obtain ⟨-, hnext⟩ | ⟨-, hnext⟩ := emitRun_of_firstExit hk
    · exact ⟨_, hnext⟩
    · exact ⟨_, hnext⟩

/-- R103: under TapRange of the word in use the states passed over from a state in range are different values above the length,
so there are fewer than `2^b - len` of them. -/
theorem FirstExit.le_of_tapRange {s : State} {k b : Nat} (hk : FirstExit s k) (htap : TapRange b (maskOf s))
    (hcur : s.cur.toNat ≤ s.len.toNat) (hlen : s.len.toNat < 2 ^ b) : k ≤ 2 ^ b - s.len.toNat := by
  obtain ⟨-, hpassed, -⟩ := hk
  by_contra hmany
  have hb := hcur.trans_lt hlen
  obtain ⟨i, j, hij, hj, heq⟩ := exists_orbit_eq_of_lt (m := maskOf s) (c := orbit (maskOf s) s.cur 1)
    (lo := s.len.toNat + 1) (n := 2 ^ b - 1 - s.len.toNat) fun l hl => by
      rw [← orbit_add]
      have := (hpassed (1 + l) (by omega) (by omega)).2
      have := orbit_lt_two_pow hb htap.1 (1 + l)
      omega
  rw [← orbit_add, ← orbit_add] at heq
  have hreturn := orbit_sub_eq_self htap hb (by omega) heq
  have hout := (hpassed (1 + j - (1 + i)) (by omega) (by omega)).2
  rw [hreturn] at hout
  omega

end Sys2Proof.Machine
end

section
/-! SUPPORT. The family 41_next_command.md, part 3: runs of NEXT, and the sequence that the period of START gives
(41_next_command.md R91, R104, R108, R112). -/

namespace Sys2Proof.Machine

open Function

theorem pulls_succ_of_exec {s t : State} (h : exec .next s = .next t) (n : Nat) : pulls (n + 1) s = pulls n t := by
  rw [pulls, h]

/-- A run that answers has answered at its first command. -/
theorem exists_of_pulls_succ {s u : State} {n : Nat} (h : pulls (n + 1) s = .next u) :
    ∃ t, exec .next s = .next t ∧ pulls n t = .next u := by
  rw [pulls] at h
  cases hnext : exec .next s with
  | next t => exact ⟨t, rfl, by rwa [hnext] at h⟩
  | fault f => rw [hnext] at h; cases h
  | refused r => rw [hnext] at h; cases h

/-- The pulls after a run go on from where it ended. -/
theorem pulls_add {s t : State} {n : Nat} (h : pulls n s = .next t) (k : Nat) : pulls (n + k) s = pulls k t := by
  induction n generalizing s with
  | zero =>
    cases h
    rw [Nat.zero_add]
  | succ n ih =>
    obtain ⟨s', hnext, hrest⟩ := exists_of_pulls_succ h
    rw [Nat.add_right_comm, pulls_succ_of_exec hnext, ih hrest]

/-- The responses given stay. -/
theorem rsps_isPrefix_of_pulls {s t : State} {n : Nat} (h : pulls n s = .next t) : s.rsps <+: t.rsps := by
  induction n generalizing s with
  | zero =>
    cases h
    exact List.prefix_rfl
  | succ n ih =>
    obtain ⟨s', hnext, hrest⟩ := exists_of_pulls_succ h
    obtain ⟨w, hw⟩ := (nextAnswers_of_exec hnext).rsps_eq
    exact (hw ▸ List.prefix_append s.rsps [w]).trans (ih hrest)

theorem rsps_isPrefix_of_pulls_le {s t u : State} {n k : Nat} (ht : pulls n s = .next t) (hu : pulls k s = .next u)
    (hle : n ≤ k) : t.rsps <+: u.rsps := by
  obtain ⟨r, rfl⟩ := Nat.exists_eq_add_of_le hle
  exact rsps_isPrefix_of_pulls ((pulls_add ht r).symm.trans hu)

/-- R53: END is no element. -/
theorem ended_notMem_map_elem (es : List Word) : rspWord .ended 0 ∉ es.map (rspWord .elem) := by
  intro h
  obtain ⟨v, -, hv⟩ := List.mem_map.1 h
  cases (rspWord_inj.1 hv).1

/-- Elements answered without an END are the first of the sequence: of two runs from one state, the responses of the shorter
are the first of the longer's, and END is no element. -/
theorem isPrefix_of_emits {t u : State} {full es : List Word} {n : Nat} (hfull : Emits t full) (hu : pulls n t = .next u)
    (hes : u.rsps = t.rsps ++ es.map (rspWord .elem)) : es <+: full := by
  obtain ⟨v, hv, -, hrsps⟩ := hfull
  rw [List.append_assoc] at hrsps
  have hended : rspWord .ended 0 ∈ full.map (rspWord .elem) ++ [rspWord .ended 0] := by simp
  obtain hle | hle := Nat.le_total n (full.length + 1)
  · have hinit := rsps_isPrefix_of_pulls_le hu hv hle
    rw [hes, hrsps, List.prefix_append_right_inj, List.prefix_concat_iff] at hinit
    obtain heq | hinit := hinit
    · exact absurd (heq ▸ hended) (ended_notMem_map_elem es)
    · exact (List.prefix_map_iff_of_injective fun _ _ h => (rspWord_inj.1 h).2).1 hinit
  · have hinit := rsps_isPrefix_of_pulls_le hv hu hle
    rw [hes, hrsps, List.prefix_append_right_inj] at hinit
    exact absurd (hinit.subset hended) (ended_notMem_map_elem es)

/-- R91, R108: NEXT commands in phase IDLE append END and change nothing else. -/
theorem pulls_eq_of_idle {s : State} (hphase : s.phase = .idle) (n : Nat) :
    pulls n s = .next { s with rsps := s.rsps ++ List.replicate n (rspWord .ended 0) } := by
  induction n generalizing s with
  | zero => simp [pulls]
  | succ n ih =>
    rw [pulls_succ_of_exec (exec_next_of_idle hphase), ih (s := respond .ended 0 s) hphase]
    simp [respond, List.replicate_succ]

theorem length_elements_le (m len c : Word) (n : Nat) : (elements m len c n).length ≤ n := by
  rw [elements, List.length_map]
  exact (List.length_filter_le _ _).trans (by simp)

/-- R104: within its period a state gives no element twice. -/
theorem nodup_elements_minimalPeriod (m len c : Word) : (elements m len c (minimalPeriod (stepBy m) c)).Nodup := by
  refine List.Nodup.map (sub_left_injective (b := 1)) (List.Nodup.filter _ ?_)
  refine List.Nodup.map_on (fun i hi j hj heq => ?_) List.nodup_range
  rw [orbit_eq_iterate, orbit_eq_iterate] at heq
  exact iterate_injOn_Iio_minimalPeriod (List.mem_range.1 hi) (List.mem_range.1 hj) heq

/-- R72, R91: length 0. -/
theorem emits_load_zero {length : Word} (hlen : length.toNat = 0) (seed : Word) (s : State) :
    Emits (load length seed s) [] :=
  emits_of_idle (if_pos (BitVec.eq_of_toNat_eq hlen))

/-- R92: length 1. -/
theorem emits_load_one {length : Word} (hlen : length.toNat = 1) (seed : Word) (s : State) :
    Emits (load length seed s) [0] :=
  emits_of_first_one (load_phase_of_pos (by omega) seed s) hlen

/-- R92, R93: length 2. -/
theorem emits_load_two {length : Word} (hlen : length.toNat = 2) (seed : Word) (s : State) :
    Emits (load length seed s) [1, 0] :=
  emits_of_first_two (load_phase_of_pos (by omega) seed s) hlen

/-- R17: one more than a seed below the length is in range. -/
theorem toNat_add_one_le_of_lt {seed len : Word} (h : seed.toNat < len.toNat) : (seed + 1).toNat ≤ len.toNat := by
  rw [toNat_add_one_of_lt h]
  exact h

/-- R104: under TapRange of the word in use the sequence of a length of 3 or more is what START gives within its period. -/
theorem emits_load_of_tapRange {length seed : Word} (s : State) (hlen : 3 ≤ length.toNat)
    (hseed : seed.toNat < length.toNat) (htap : TapRange (bitWidth length) (romRead s (romIndex length))) :
    Emits (load length seed s) (elements (romRead s (romIndex length)) length (seed + 1)
      (minimalPeriod (stepBy (romRead s (romIndex length))) (seed + 1))) := by
  have hstart := toNat_add_one_le_of_lt hseed
  have hwidth : 2 ^ bitWidth length ≤ loopBound := Nat.pow_le_pow_right (by decide) (bitWidth_le length)
  obtain ⟨hpos, hle⟩ := minimalPeriod_of_tapRange htap (hstart.trans_lt (toNat_lt_two_pow_bitWidth length))
  have hperiod := orbit_minimalPeriod (romRead s (romIndex length)) (seed + 1)
  have hleast {j : Nat} := orbit_ne_self_of_lt_minimalPeriod (m := romRead s (romIndex length)) (c := seed + 1) (k := j)
  generalize minimalPeriod (stepBy (romRead s (romIndex length))) (seed + 1) = p at hpos hle hperiod hleast ⊢
  obtain ⟨d, rfl⟩ := Nat.exists_eq_add_of_le' hpos
  rw [elements_succ_of_le hstart, BitVec.add_sub_cancel]
  refine emits_of_first (s := load length seed s) (load_phase_of_pos (by omega) seed s) hlen ?_
  exact emits_of_run (s := respond .elem seed { load length seed s with phase := .run }) d rfl (by omega) hperiod
    fun j h1 h2 => hleast h1 (by omega)

/-- R104: under TapRange of the word in use every valid pair has a sequence to END, without repeats. -/
theorem exists_emits_nodup_of_tapRange {length seed : Word} (s : State) (hvalid : ValidPair length.toInt seed.toInt)
    (htap : TapRange (bitWidth length) (romRead s (romIndex length))) :
    ∃ es, Emits (load length seed s) es ∧ es.Nodup := by
  obtain ⟨hzero, -⟩ | ⟨-, hseed⟩ := validPair_toNat hvalid
  · exact ⟨[], emits_load_zero hzero seed s, List.nodup_nil⟩
  obtain hone | htwo | hthree : length.toNat = 1 ∨ length.toNat = 2 ∨ 3 ≤ length.toNat := by omega
  · exact ⟨[0], emits_load_one hone seed s, List.nodup_singleton 0⟩
  · exact ⟨[1, 0], emits_load_two htwo seed s, by decide⟩
  · exact ⟨_, emits_load_of_tapRange s hthree hseed htap, nodup_elements_minimalPeriod _ _ _⟩

/-- R94: a NEXT whose first step is in range, and is not START, emits it. -/
theorem exec_next_of_step_in_range {s : State} (hphase : s.phase = .run) (hne : orbit (maskOf s) s.cur 1 ≠ startOf s)
    (hle : (orbit (maskOf s) s.cur 1).toNat ≤ s.len.toNat) :
    exec .next s = .next (respond .elem (orbit (maskOf s) s.cur 1 - 1) { s with cur := orbit (maskOf s) s.cur 1 }) := by
  have hfirst : FirstExit s 1 := ⟨le_rfl, fun j h1 h2 => by omega, fun h => Nat.not_lt.2 hle h.2⟩
  obtain ⟨hstart, -⟩ | ⟨-, hnext⟩ := emitRun_of_firstExit hfirst
  · exact absurd hstart hne
  · exact (exec_next_of_run hphase).trans hnext

/-- R112: where START lies above the mask, each NEXT from a state no higher than START emits the next state. -/
theorem pulls_of_above {s : State} {w : Nat} (n : Nat) (hphase : s.phase = .run) (hlen : (startOf s).toNat ≤ s.len.toNat)
    (hm : (maskOf s).toNat < 2 ^ w) (habove : 2 ^ w ≤ (startOf s).toNat) (hcur : s.cur.toNat ≤ (startOf s).toNat) :
    ∃ u, pulls n s = .next u ∧ u.phase = .run ∧ u.cur = orbit (maskOf s) s.cur n ∧
      u.rsps = s.rsps ++ (List.range n).map fun j => rspWord .elem (orbit (maskOf s) s.cur (j + 1) - 1) := by
  induction n generalizing s with
  | zero => exact ⟨s, rfl, hphase, rfl, by simp⟩
  | succ n ih =>
    have hlt := orbit_lt_of_above hm habove hcur le_rfl
    have hnext := exec_next_of_step_in_range hphase (fun h => by rw [h] at hlt; omega) (by omega)
    obtain ⟨u, hpulls, hrun, hucur, hrsps⟩ :=
      ih (s := respond .elem (orbit (maskOf s) s.cur 1 - 1) { s with cur := orbit (maskOf s) s.cur 1 })
        hphase hlen hm habove hlt.le
    have hshift (j : Nat) : orbit (maskOf s) (orbit (maskOf s) s.cur 1) j = orbit (maskOf s) s.cur (j + 1) := by
      rw [← orbit_add, Nat.add_comm]
    refine ⟨u, (pulls_succ_of_exec hnext n).trans hpulls, hrun, hucur.trans (hshift n), ?_⟩
    simp only [maskOf_respond, maskOf_set_cur, respond_cur, respond_rsps, hshift] at hrsps
    rw [hrsps, List.range_succ_eq_map]
    simp

end Sys2Proof.Machine
end

section
/-! SUPPORT. The family 41_next_command.md, part 4: under TapOK the sequences of one length are rotations of one another, and how
that of seed 0 ends (41_next_command.md R105 to R107, R110). -/

namespace Sys2Proof.Machine

open Function

/-- R105: the elements of a cycle, begun `k` states later, are rotated by what the first `k` states give. -/
theorem elements_rotate {m len c : Word} {n k : Nat} (hreturn : orbit m c n = c) (hk : k ≤ n) :
    elements m len (orbit m c k) n = (elements m len c n).rotate (elements m len c k).length := by
  obtain ⟨r, rfl⟩ := Nat.exists_eq_add_of_le hk
  rw [orbit_add] at hreturn
  rw [elements_add m len c, List.rotate_append_length_eq, Nat.add_comm k r, elements_add, hreturn]

/-- The element of the state `k` steps on stands behind what the first `k` states give. -/
theorem getElem?_elements {m len c : Word} {n k : Nat} (hk : k < n) (hle : (orbit m c k).toNat ≤ len.toNat) :
    (elements m len c n)[(elements m len c k).length]? = some (orbit m c k - 1) := by
  obtain ⟨r, rfl⟩ := Nat.exists_eq_add_of_lt hk
  rw [Nat.add_assoc, elements_add, elements_succ_of_le hle]
  simp

/-- R106 (c): from the top state down the register halves. -/
theorem toNat_orbit_topState {b k : Nat} (hb : b ≤ 32) (m : Word) (hk : k ≤ b - 1) :
    (orbit m (topState b) k).toNat = 2 ^ (b - 1 - k) := by
  induction k with
  | zero => exact toNat_topState hb
  | succ k ih =>
    rw [orbit_succ, toNat_lfsrStep, ih (by omega), show b - 1 - k = b - 1 - (k + 1) + 1 by omega, Nat.pow_succ',
      stepNat_two_mul]

/-- R106 (b): under TapOK the states before the recurrence of 1 are `2^(b-1)` and its halves. -/
theorem orbit_one_eq_topState {b : Nat} {m : Word} (h : TapOK b m) {k : Nat} (hk : k + (b - 1) = 2 ^ b - 1) :
    orbit m 1 k = topState b := by
  have hb := ne_zero_of_tapRange h.1
  have hone : (1 : Word).toNat < 2 ^ b := Nat.one_lt_two_pow hb
  refine orbit_injOn h.1 (orbit_lt_two_pow hone h.1.1 k) (topState_lt_two_pow h.1) (k := b - 1) ?_
  rw [← orbit_add, hk, h.2.1, orbit_topState_eq_one (le_of_tapRange h.1)]

/-- The elements of the states `2^(b-1)` down to 2, the powers of 2 less 1 (R106 (b)). -/
def powersDown (b : Nat) : List Nat := (List.range (b - 1)).reverse.map fun k => 2 ^ (k + 1) - 1

/-- R106 (b): the top state and its halves above 1 are in range and give these elements. -/
theorem elements_topState {b : Nat} {len : Word} (hb : b ≤ 32) (m : Word) (hlen : 2 ^ (b - 1) ≤ len.toNat) :
    (elements m len (topState b) (b - 1)).map BitVec.toNat = powersDown b := by
  have hstate : ∀ k, k < b - 1 → (orbit m (topState b) k).toNat = 2 ^ (b - 1 - k) := fun k hk =>
    toNat_orbit_topState hb m hk.le
  have hnonzero : ∀ k, k < b - 1 → orbit m (topState b) k ≠ 0 := fun k hk =>
    one_le_toNat_iff.1 (hstate k hk ▸ Nat.two_pow_pos _)
  have hinrange : ∀ d ∈ (List.range (b - 1)).map fun k => (orbit m (topState b) k).toNat, d ≤ len.toNat := by
    intro d hd
    obtain ⟨k, hk, rfl⟩ := List.mem_map.1 hd
    rw [hstate k (List.mem_range.1 hk)]
    exact (Nat.pow_le_pow_right (by decide) (Nat.sub_le _ _)).trans hlen
  rw [elements_map_toNat hnonzero, List.filter_eq_self.2 (by simpa using hinrange), List.map_map, powersDown]
  refine List.ext_getElem (by simp) fun i hmap _ => ?_
  have hi : i < b - 1 := by simpa using hmap
  simp only [List.getElem_map, List.getElem_range, List.getElem_reverse, List.length_range, comp_apply, hstate i hi]
  congr 2
  omega

/-- R106 (b): under TapOK the cycle of 1 gives these elements last. -/
theorem powersDown_suffix_elements {len m : Word} (hlen : 2 ≤ len.toNat) (h : TapOK (bitWidth len) m) :
    powersDown (bitWidth len) <:+ (elements m len 1 (2 ^ bitWidth len - 1)).map BitVec.toNat := by
  have hroom : bitWidth len - 1 ≤ 2 ^ bitWidth len - 1 := Nat.sub_le_sub_right Nat.lt_two_pow_self.le 1
  obtain ⟨k, hk⟩ := Nat.exists_eq_add_of_le' hroom
  rw [hk, elements_add, orbit_one_eq_topState h hk.symm, List.map_append,
    elements_topState (bitWidth_le len) m (two_pow_bitWidth_sub_one_le hlen)]
  exact List.suffix_append _ _

/-- R107: these elements end in 1. -/
theorem getLast?_powersDown {b : Nat} (hb : 2 ≤ b) : (powersDown b).getLast? = some 1 := by
  obtain ⟨r, rfl⟩ := Nat.exists_eq_add_of_le hb
  simp [powersDown, Nat.add_comm 2 r, List.range_succ_eq_map]

/-- R107: 0 to `n - 1`, for an `n` of 3 or more, does not end in 1. -/
theorem getLast?_range_ne {n : Nat} (hn : 3 ≤ n) : (List.range n).getLast? ≠ some 1 := by
  obtain ⟨r, rfl⟩ := Nat.exists_eq_add_of_le' hn
  simp [List.range_succ]

/-- R92: the elements of START's cycle begin with the seed. -/
theorem head?_elements {m len seed : Word} {n : Nat} (hn : 1 ≤ n) (hseed : seed.toNat < len.toNat) :
    (elements m len (seed + 1) n).head? = some seed := by
  obtain ⟨r, rfl⟩ := Nat.exists_eq_add_of_le' hn
  rw [elements_succ_of_le (toNat_add_one_le_of_lt hseed), List.head?_cons, BitVec.add_sub_cancel]

/-- R107: the elements of a cycle under TapOK are not in ascending order: they would begin with 0, and then they end in 1. -/
theorem elements_ne_range {len seed m : Word} (hlen : 3 ≤ len.toNat) (hseed : seed.toNat < len.toNat)
    (h : TapOK (bitWidth len) m) :
    (elements m len (seed + 1) (2 ^ bitWidth len - 1)).map BitVec.toNat ≠ List.range len.toNat := by
  intro hascending
  have hpos : 1 ≤ 2 ^ bitWidth len - 1 := Nat.sub_pos_of_lt (Nat.one_lt_two_pow (ne_zero_of_tapRange h.1))
  have hhead := congrArg List.head? hascending
  rw [List.head?_map, head?_elements hpos hseed, List.head?_range, if_neg (by omega)] at hhead
  obtain rfl : seed = 0 := BitVec.eq_of_toNat_eq (Option.some.inj hhead)
  obtain ⟨init, hinit⟩ := powersDown_suffix_elements (by omega) h
  have hlast := congrArg List.getLast? (hinit.trans hascending)
  rw [List.getLast?_append, getLast?_powersDown (two_le_bitWidth len)] at hlast
  exact getLast?_range_ne hlen hlast.symm

/-- R49: a length of 3 or more, read unsigned. -/
theorem three_le_toNat {length : Word} (h : 3 ≤ length.toInt) : 3 ≤ length.toNat := by
  rw [BitVec.toInt_eq_toNat_cond] at h
  have := length.isLt
  split at h <;> omega

/-- R67: in a valid pair of a positive length the seed is below the length. -/
theorem seed_lt_of_validPair {length seed : Word} (hvalid : ValidPair length.toInt seed.toInt) (hlen : length.toNat ≠ 0) :
    seed.toNat < length.toNat := by
  obtain ⟨hzero, -⟩ | ⟨-, hlt⟩ := validPair_toNat hvalid
  · exact absurd hzero hlen
  · exact hlt

/-- R73: GEN with a length that is not negative loads the seed 0. -/
theorem exec_gen_of_length_nonneg {length : Word} (h : 0 ≤ length.toInt) (s : State) :
    exec (.gen length) s = .next (load length 0 s) := by
  rw [exec_gen, startWith_of_validPair (validPair_zero h)]

/-- R110: the words that are maximal-length masks of width 2 give one sequence of length 3 … -/
theorem elements_three {m : Word} (h : TapOK 2 m) : elements m 3 1 (2 ^ 2 - 1) = [0, 2, 1] := by
  have hall : ∀ n : Fin 4, TapOK 2 (BitVec.ofNat 32 n) → elements (BitVec.ofNat 32 n) 3 1 (2 ^ 2 - 1) = [0, 2, 1] := by
    decide
  simpa using hall ⟨m.toNat, h.1.1⟩ (by simpa using h)

/-- … and those of width 3 one of length 4. -/
theorem elements_four {m : Word} (h : TapOK 3 m) : elements m 4 1 (2 ^ 3 - 1) = [0, 2, 3, 1] := by
  have hall : ∀ n : Fin 8, TapOK 3 (BitVec.ofNat 32 n) → elements (BitVec.ofNat 32 n) 4 1 (2 ^ 3 - 1) = [0, 2, 3, 1] := by
    decide
  simpa using hall ⟨m.toNat, h.1.1⟩ (by simpa using h)

end Sys2Proof.Machine
end

section
/-! The theorems that settle the statements of the family 41_next_command.md. -/

namespace Sys2Proof.Machine

/-- Settles O27: the formula is the definition; the cases by the feedback select; the bits by `getLsbD_lfsrStep`, where bit 32
of the register is 0. -/
theorem lfsrStepByFormulaCaseAndBit : Obligations.LfsrStepByFormulaCaseAndBit := by
  refine fun c m => ⟨rfl, fun h => ⟨feedbackSelect_of_lsb_false h, lfsrStep_of_lsb_false h m⟩,
    fun h => ⟨feedbackSelect_of_lsb_true h, lfsrStep_of_lsb_true h m⟩, fun i _ => getLsbD_lfsrStep c m i, rfl, ?_⟩
  rw [getLsbD_lfsrStep, BitVec.getLsbD_of_ge c 32 le_rfl, Bool.false_xor]

/-- Settles O28: the two halves of R101, each a lemma on the step. -/
theorem lfsrStepStaysInRange : Obligations.LfsrStepStaysInRange := fun _ _ _ hpos hc hm =>
  ⟨lfsrStep_lt_two_pow hc hm, fun htop => lfsrStep_ne_zero ⟨hm, htop⟩ (one_le_toNat_iff.1 hpos) hc⟩

/-- Settles O29: the step is linear with no state but 0 that steps to 0, so it is injective; its inverse is that of R37, and an
injective step returns. -/
theorem lfsrStepIsBijective : Obligations.LfsrStepIsBijective := fun _ m h =>
  ⟨lfsrStep_zero m, fun _ hc => lfsrStep_lt_two_pow hc h.1, fun _ _ hc hd => lfsrStep_injOn h hc hd,
    fun _ hc => ⟨lfsrStep_source_of_top_true h hc, lfsrStep_source_of_top_false h hc⟩,
    fun _ hc => exists_orbit_eq_self h hc⟩

/-- Settles O36: the state `k` steps on is the first exit, START by the first clause and in range by the second. -/
theorem nextInRunStopsAtFirstExit : Obligations.NextInRunStopsAtFirstExit := by
  intro s k hphase hk hpassed
  rw [exec_next_of_run hphase]
  refine ⟨fun hstart => ?_, fun hne hle => ?_⟩
  · obtain ⟨-, hnext⟩ | ⟨hne, -⟩ := emitRun_of_firstExit (s := s) ⟨hk, hpassed, fun h => h.1 hstart⟩
    · exact hnext
    · exact absurd hstart hne
  · obtain ⟨hstart, -⟩ | ⟨-, hnext⟩ := emitRun_of_firstExit (s := s) ⟨hk, hpassed, fun h => Nat.not_lt.2 hle h.2⟩
    · exact absurd hstart hne
    · exact hnext

/-- Settles O37: outside phase RUN NEXT answers; in phase RUN it faults when there is no exit, and only then. -/
theorem nextFaultsOnlyOnEndlessLoop : Obligations.NextFaultsOnlyOnEndlessLoop := by
  intro s
  constructor
  · intro hfault
    cases hphase : s.phase with
    | idle => cases (exec_next_of_idle hphase).symm.trans hfault
    | first => cases (exec_next_of_first hphase).symm.trans hfault
    | second => cases (exec_next_of_second hphase).symm.trans hfault
    | run =>
      have hrun := (exec_next_of_run hphase).symm.trans hfault
      obtain ⟨-, hall⟩ | ⟨k, -, ⟨-, hnext⟩ | ⟨-, hnext⟩⟩ := emitRun_endless_or_exit s
      · exact ⟨rfl, hall⟩
      · cases hnext.symm.trans hrun
      · cases hnext.symm.trans hrun
  · rintro ⟨hphase, hall⟩
    rw [exec_next_of_run hphase]
    obtain ⟨hfault, -⟩ | ⟨k, ⟨hk, -, hexit⟩, -⟩ := emitRun_endless_or_exit s
    · exact hfault
    · exact absurd (hall k hk) hexit

/-- Settles O39: the loop exits since the invariant holds, and at its first exit CUR is the stepped state. -/
theorem nextStepsAreBoundedUnderTapOK : Obligations.NextStepsAreBoundedUnderTapOK := by
  intro s hinv hphase htap
  obtain ⟨-, -, -, hcur, -⟩ := (stateInv_run hphase).1 hinv
  obtain ⟨k, hk⟩ := exists_firstExit_of_stateInv hinv hphase
  have hbound := hk.le_of_tapRange htap.1 hcur (toNat_lt_two_pow_bitWidth s.len)
  rw [exec_next_of_run hphase]
  have hanswer := emitRun_of_firstExit hk
  obtain ⟨h1, hpassed, -⟩ := hk
  have hout : ∀ j, 1 ≤ j → j < k → s.len.toNat < (orbit (maskOf s) s.cur j).toNat := fun j hj hlt => (hpassed j hj hlt).2
  obtain ⟨hstart, hnext⟩ | ⟨-, hnext⟩ := hanswer
  · exact ⟨_, k, hnext, h1, hbound, hstart.symm, hout⟩
  · exact ⟨_, k, hnext, h1, hbound, rfl, hout⟩

/-- Settles O44: the sequence runs to END without repeats, and elements answered before END are the first of it. -/
theorem noElementTwiceUnderTapRange : Obligations.NoElementTwiceUnderTapRange := by
  intro length seed s t u n es hvalid htap hexec hpulls hrsps
  cases (exec_gens_of_validPair hvalid s).symm.trans hexec
  obtain ⟨full, hfull, hnodup⟩ := exists_emits_nodup_of_tapRange s hvalid htap
  exact hnodup.sublist (isPrefix_of_emits hfull hpulls hrsps).sublist

/-- Settles O45: `seed + 1` stands `k` states after 1 on the cycle of all nonzero states, so its sequence is that of seed 0
rotated by what these `k` states give. -/
theorem seedRotatesTheSequence : Obligations.SeedRotatesTheSequence := by
  intro length seed s hlength hvalid htap
  have hlen := three_le_toNat hlength
  have hseed := seed_lt_of_validPair hvalid (by omega)
  have hstart := toNat_add_one_le_of_lt hseed
  have hwidth := toNat_lt_two_pow_bitWidth length
  obtain ⟨k, hk, hkseed⟩ := exists_orbit_one_eq htap (add_one_ne_zero_of_lt hseed) (hstart.trans_lt hwidth)
  have hplace := getElem?_elements hk (hkseed.symm ▸ hstart)
  have hrotate := elements_rotate (len := length) htap.2.1 hk.le
  rw [hkseed] at hplace hrotate
  rw [BitVec.add_sub_cancel] at hplace
  exact ⟨_, _, _, _, _, exec_gens_of_validPair (validPair_zero (by omega)) s,
    emits_load_of_tapOK s hlen (show 0 < length.toNat by omega) htap, exec_gens_of_validPair hvalid s,
    emits_load_of_tapOK s hlen hseed htap, hplace, hrotate⟩

/-- Settles O46: GEN loads the seed 0, and the cycle of 1 ends with the halves of the top state. -/
theorem seedZeroSequenceEndsInPowers : Obligations.SeedZeroSequenceEndsInPowers := by
  intro length s hlength htap
  have hlen := three_le_toNat hlength
  exact ⟨_, _, exec_gen_of_length_nonneg (by omega) s,
    emits_load_of_tapOK s hlen (show 0 < length.toNat by omega) htap, powersDown_suffix_elements (by omega) htap⟩

/-- Settles O47: the sequence begins with its seed, and that of seed 0 ends in 1. -/
theorem sequenceIsNeverAscending : Obligations.SequenceIsNeverAscending := by
  intro length seed s hlength hvalid htap
  have hlen := three_le_toNat hlength
  have hseed := seed_lt_of_validPair hvalid (by omega)
  exact ⟨_, _, exec_gens_of_validPair hvalid s, emits_load_of_tapOK s hlen hseed htap, elements_ne_range hlen hseed htap⟩

/-- Settles O48: the lengths 0, 1 and 2 do not use the mask; the sequences of the lengths 3 and 4 are those of the few masks
of the widths 2 and 3. -/
theorem shortLengthDialogues : Obligations.ShortLengthDialogues := by
  intro s
  have hgen {length : Word} (h : 0 ≤ length.toInt) := exec_gen_of_length_nonneg h s
  refine ⟨⟨_, hgen (by decide), rfl, emits_load_zero rfl 0 s⟩, ⟨_, hgen (by decide), rfl, emits_load_one rfl 0 s⟩,
    ⟨_, hgen (by decide), rfl, emits_load_two rfl 0 s⟩, fun htap => ⟨_, hgen (by decide), rfl, ?_⟩,
    fun htap => ⟨_, hgen (by decide), rfl, ?_⟩⟩
  · rw [← elements_three htap]
    exact emits_load_of_tapOK (length := 3) (seed := 0) s (by decide) (by decide) htap
  · rw [← elements_four htap]
    exact emits_load_of_tapOK (length := 4) (seed := 0) s (by decide) (by decide) htap

/-- Settles O49: an END in phase RUN goes to IDLE, where NEXT only answers END. -/
theorem endedSequenceStaysEnded : Obligations.EndedSequenceStaysEnded := by
  intro s t hphase hexec hrsps
  suffices hidle : t.phase = .idle from ⟨hidle, pulls_eq_of_idle hidle⟩
  have hrun := (exec_next_of_run hphase).symm.trans hexec
  obtain ⟨hfault, -⟩ | ⟨k, -, ⟨-, hnext⟩ | ⟨-, hnext⟩⟩ := emitRun_endless_or_exit s
  · cases hfault.symm.trans hrun
  · cases hnext.symm.trans hrun
    rfl
  · cases hnext.symm.trans hrun
    cases (append_rspWord_inj.1 hrsps).1

/-- Settles O50: NEXT to the end emits what the states before START give, of which there are fewer than `2^w - 1`. -/
theorem sequenceEndsWhenStartIsWithinTheMask : Obligations.SequenceEndsWhenStartIsWithinTheMask := by
  intro s w hinv hphase htap hwithin
  obtain ⟨-, -, -, -, -, -, hreached⟩ := (stateInv_run hphase).1 hinv
  obtain ⟨d, hd, hstart, hbefore⟩ := exists_start_of_within hreached htap hwithin
  have hword : 2 ^ w ≤ loopBound := Nat.pow_le_pow_right (by decide) (le_of_tapRange htap)
  obtain ⟨u, hpulls, hidle, -⟩ := emits_of_run d hphase (by omega) hstart hbefore
  have hlength := length_elements_le (maskOf s) s.len (orbit (maskOf s) s.cur 1) d
  exact ⟨_, u, by omega, hpulls, hidle⟩

/-- Settles O51: CUR, reached from START, lies no higher than START, so every further state lies below it and in range. -/
theorem sequenceNeverEndsWhenStartIsAboveTheMask : Obligations.SequenceNeverEndsWhenStartIsAboveTheMask := by
  intro s w n hinv hphase hm habove
  obtain ⟨-, -, -, -, -, -, hreached⟩ := (stateInv_run hphase).1 hinv
  obtain ⟨-, hlen⟩ := startOf_of_stateInv hinv (by simp [hphase])
  exact pulls_of_above n hphase hlen hm habove (cur_le_start_of_above hreached hm habove)

/-- Settles O58: an input is a command, which answers, or is answered at once. -/
theorem invariantStatesNeverStop : Obligations.InvariantStatesNeverStop := by
  intro s hinv
  obtain ⟨-, hstep⟩ | ⟨rest, ⟨w, i, -, -, hstep⟩ | ⟨w, e, -, -, hstep⟩ | ⟨-, hstep⟩ | ⟨w, requested, -, hstep⟩⟩ :=
    step_cases s
  · exact ⟨s, hstep⟩
  · rw [hstep]
    by_cases hi : i = .next
    · subst hi
      exact exec_next_answers_of_stateInv (s := { s with inputs := rest }) hinv
    · obtain ⟨length, seed, s₀, hstart, -⟩ := exec_of_ne_next hi { s with inputs := rest }
      exact ⟨_, hstart⟩
  · exact ⟨_, hstep⟩
  · exact ⟨_, hstep⟩
  · exact ⟨_, hstep⟩

/-- Settles O32: the low bit of 1 feeds the mask back into 0; an even state is a double. -/
theorem stepOfOneAndOfEvenStates : Obligations.StepOfOneAndOfEvenStates := by
  refine fun c m => ⟨?_, fun heven => ?_⟩
  · rw [lfsrStep_of_lsb_true rfl]
    exact BitVec.zero_xor
  · obtain ⟨d, hd⟩ := Nat.dvd_of_mod_eq_zero heven
    rw [toNat_lfsrStep, hd, stepNat_two_mul, Nat.mul_div_cancel_left d (by decide)]

/-- Settles O33: the arm of R91. -/
theorem nextInIdleAnswersEnd : Obligations.NextInIdleAnswersEnd := fun _ => exec_next_of_idle

/-- Settles O34: the three lines of R92. -/
theorem nextInFirstEmitsFirstElement : Obligations.NextInFirstEmitsFirstElement := by
  intro s hphase
  rw [exec_next_of_first hphase]
  refine ⟨fun hone => ?_, fun htwo => ?_, fun hone htwo => ?_⟩
  · rw [emitFirst, if_pos hone]
    rfl
  · rw [emitFirst, if_neg (by omega), if_pos htwo]
    rfl
  · rw [emitFirst, if_neg hone, if_neg htwo]
    rfl

/-- Settles O35: the arm of R93. -/
theorem nextInSecondEmitsZero : Obligations.NextInSecondEmitsZero := fun _ => exec_next_of_second

end Sys2Proof.Machine
end

section
/-! SUPPORT. The family 60_exceptions.md: the requests to a random source (R128). -/

namespace Sys2Proof.Machine

/-- R128: GENR makes the one request of its draw, which a negative length skips. -/
theorem genrDrawn_requests (length : Word) (src : Source) (s : State) :
    (genrDrawn length src s).requests = s.requests ++ if length.toInt < 0 then [] else [⟨src, length⟩] := by
  by_cases hneg : length.toInt < 0
  · simp [genrDrawn_of_length_neg s hneg, hneg]
  · simp [genrDrawn_of_length_nonneg s (Int.not_lt.1 hneg), hneg]

end Sys2Proof.Machine
end

section
/-! The theorems that settle the statements of the family 60_exceptions.md. -/

namespace Sys2Proof.Machine

/-- Settles O20: the shared start makes no request itself, so GENR makes that of its draw and GEN and GENS none; NEXT makes none,
and an illegal word only adds its response (O5). -/
theorem requestsAreExactlyThese : Obligations.RequestsAreExactlyThese := by
  refine ⟨fun i s t h => ?_, fun s t w rest hinputs hillegal h => ?_⟩
  · cases i with
    | gen length =>
      cases (exec_gen length s).symm.trans h
      simp
    | genr length src =>
      cases (exec_genr length src s).symm.trans h
      rw [startWith_requests, genrDrawn_requests]
    | gens length arg =>
      cases (exec_gens length arg s).symm.trans h
      simp
    | next => simpa using (nextAnswers_of_exec h).requests_eq
  · obtain ⟨-, hanswer⟩ := illegalWordsAnsweredAndNothingWritten w
    cases (hanswer s rest hillegal hinputs).symm.trans h
    rfl

/-- Settles O54: there is no input to take. -/
theorem nothingHappensWithoutInput : Obligations.NothingHappensWithoutInput := by
  intro s hinputs
  rw [step, takeInput_eq_none.2 hinputs]

end Sys2Proof.Machine
end

section
/-! SUPPORT. The family 70_reset_and_hazards.md: the step on a reset, and what a command cut short may already have requested
(70_reset_and_hazards.md R140). -/

namespace Sys2Proof.Machine

/-- R140: the step on a reset between two commands. -/
theorem step_of_reset {s : State} {rest : List Input} (h : s.inputs = .reset :: rest) :
    step s = .next (applyReset { s with inputs := rest }) := by
  rw [step, takeInput_eq_some.2 ⟨rest, h, rfl⟩]

/-- R140: the step on a command cut short. -/
theorem step_of_resetDuring {s : State} {w : CmdWord} {requested : Bool} {rest : List Input}
    (h : s.inputs = .resetDuring w requested :: rest) :
    step s = .next (cutShort w requested { s with inputs := rest }) := by
  rw [step, takeInput_eq_some.2 ⟨rest, h, rfl⟩]

@[simp] theorem cutShort_requests_of_not_requested (w : CmdWord) (s : State) :
    (cutShort w false s).requests = s.requests := rfl

@[simp] theorem cutShort_requests_of_requested (w : CmdWord) (s : State) :
    (cutShort w true s).requests = s.requests ++ requestOf w := rfl

/-- R128: a command word makes no request, or it is a GENR with a length that is not negative and makes that of its draw. -/
theorem requestOf_cases (w : CmdWord) :
    requestOf w = [] ∨
      ∃ length src, decode w = .ok (.genr length src) ∧ 0 ≤ length.toInt ∧ requestOf w = [⟨src, length⟩] := by
  cases hdecode : decode w with
  | error e => exact .inl (by simp [requestOf, hdecode])
  | ok i =>
    cases i with
    | genr length src =>
      by_cases hneg : length.toInt < 0
      · exact .inl (by simp [requestOf, hdecode, hneg])
      · exact .inr ⟨length, src, rfl, Int.not_lt.1 hneg, by simp [requestOf, hdecode, hneg]⟩
    | gen | gens | next => exact .inl (by simp [requestOf, hdecode])

end Sys2Proof.Machine
end

section
/-! The theorem that settles the statement of the family 70_reset_and_hazards.md. -/

namespace Sys2Proof.Machine

/-- Settles O53: a command cut short leaves what reset leaves, save that the word's own request may have been made
(`requestOf_cases`). -/
theorem resetReturnsToIdle : Obligations.ResetReturnsToIdle := by
  refine fun s rest => ⟨fun hinputs => ?_, fun w requested hinputs => ?_⟩
  · exact ⟨_, step_of_reset hinputs, rfl, rfl, rfl, rfl, rfl, rfl⟩
  · refine ⟨_, step_of_resetDuring hinputs, by simp, by simp, by simp, by simp, by simp, ?_, ?_⟩
    · rintro rfl
      simp
    · cases requested with
      | false => exact .inl (by simp)
      | true =>
        obtain hnone | ⟨length, src, hdecode, hlength, hone⟩ := requestOf_cases w
        · exact .inl (by simp [hnone])
        · exact .inr ⟨length, src, hdecode, hlength, by simp [hone]⟩

end Sys2Proof.Machine
end

section
/-! The theorem that settles the statement of the family of the single vectors (95_test_vectors.md V-E1 to V-E8). -/

namespace Sys2Proof.Machine

/-- R47: a word decodes to a command exactly when it is the one word of that command. -/
theorem decode_eq_ok_iff {w : CmdWord} {i : Instr} : decode w = .ok i ↔ encode i = w :=
  ⟨encode_of_decode, fun h => h ▸ decode_encode i⟩

/-- Settles O6: each word written out in V-E is the encoding of its command. -/
theorem specWordsDecode : Obligations.SpecWordsDecode := by
  simp only [Obligations.SpecWordsDecode, decode_eq_ok_iff]
  decide

end Sys2Proof.Machine
end
